-- ==== Sys2Proof/Word.lean ====
section
/-! DEFINITION. The word types of the block: R10 "Every value is an unsigned bit vector of stated width".
Bit 0 is the least significant bit (R9), which is BitVec's own numbering. -/

namespace Sys2Proof

/-- 8 bits: `OP`, `ARG`, a data byte, `STAT`. -/
abbrev Byte := BitVec 8

/-- 16 bits: a command word, `DOUT`, `CRC`, a raw field. -/
abbrev Word16 := BitVec 16

/-- 32 bits: `READ_COUNT`. -/
abbrev Word32 := BitVec 32

end Sys2Proof
end

