-- ==== Sys2Proof/Syntax.lean ====
section
/-! DEFINITION. The commands of R82, one constructor per row of spec/opcode_table.json, with the operand `ARG` carries
where it is not must-be-zero (R81). An illegal word is no command of the table; the decoder rejects it by name and the
step answers it as R193 says. -/

namespace Sys2Proof

/-- A command of the block (R82). -/
inductive Instr where
  /-- `NOP` (R190). -/
  | nop
  /-- `CRC_INIT` (R104). -/
  | crcInit
  /-- `CRC_BYTE b`: `b` is a data byte (R105). -/
  | crcByte (b : Byte)
  /-- `CRC_READ` (R106). -/
  | crcRead
  /-- `REQ_READ i`: `i` is a request-ROM index, 0..255, of which 0..7 are in range (R132). -/
  | reqRead (i : Byte)
  /-- `RX_CLEAR` (R160). -/
  | rxClear
  /-- `RX_PUSH b`: `b` is a received byte (R161). -/
  | rxPush (b : Byte)
  /-- `RX_DECODE` (R163). -/
  | rxDecode
  /-- `RD_REG r`: `r` is a register number, 0..255, mapped by R32 (R191). -/
  | rdReg (r : Byte)
  deriving DecidableEq, Repr

end Sys2Proof
end

