-- ==== Sys2Proof/WellFormed.lean ====
section
/-! DEFINITION. What is well formed: the opcode table of R82 as rows of a match and a mask, the words that select a row,
and the commands whose operands their fields can hold. -/

namespace Sys2Proof

/-- One row of the table of R82. -/
structure TableRow where
  /-- `OP` in bits 15..8, and the zero `ARG` where the row fixes it. -/
  pattern : Word16
  /-- The bits the row fixes. -/
  mask : Word16
  deriving DecidableEq, Repr

/-- R82: "A word `w` selects a row when `w & mask = match`." -/
def TableRow.selectedBy (row : TableRow) (w : Word16) : Bool := w &&& row.mask == row.pattern

/-- The nine rows of R82, in the table's order. -/
def opcodeTable : List TableRow :=
  [⟨0x0000, 0xFFFF⟩, ⟨0x0100, 0xFFFF⟩, ⟨0x0200, 0xFF00⟩, ⟨0x0300, 0xFFFF⟩, ⟨0x1000, 0xFF00⟩,
   ⟨0x2000, 0xFFFF⟩, ⟨0x2100, 0xFF00⟩, ⟨0x2200, 0xFFFF⟩, ⟨0x3000, 0xFF00⟩]

/-- A word is a defined command when it selects a row of R82; every other word is ILLEGAL (R86). -/
def isCommandWord (w : Word16) : Bool := opcodeTable.any fun row => row.selectedBy w

/-- The row of R82 a command stands in. -/
def Instr.row : Instr → TableRow
  | .nop => ⟨0x0000, 0xFFFF⟩
  | .crcInit => ⟨0x0100, 0xFFFF⟩
  | .crcByte _ => ⟨0x0200, 0xFF00⟩
  | .crcRead => ⟨0x0300, 0xFFFF⟩
  | .reqRead _ => ⟨0x1000, 0xFF00⟩
  | .rxClear => ⟨0x2000, 0xFFFF⟩
  | .rxPush _ => ⟨0x2100, 0xFF00⟩
  | .rxDecode => ⟨0x2200, 0xFFFF⟩
  | .rdReg _ => ⟨0x3000, 0xFF00⟩

/-- Every value of the 8-bit operand is a legal operand of its command: R105, R161 "every value is legal"; an out-of-range
index of REQ_READ or RD_REG "is not an illegal encoding" (R84). What the type of an operand cannot exclude, the table
does: the row of a command must be one of R82's. -/
def Instr.wellFormed (i : Instr) : Bool := opcodeTable.contains i.row

end Sys2Proof
end

