-- ==== Sys2Proof/Decode.lean ====
section
/-! DEFINITION. The decoder of R84, total on every 16-bit word, and the encoder of R82. A word is one command (R80), so
there is no length logic. An illegal word is rejected by name, in the two classes of R86. -/

namespace Sys2Proof

/-- R80: `OP = w[15:8]`. -/
def opField (w : Word16) : Byte := w.extractLsb' 8 8

/-- R80: `ARG = w[7:0]`. -/
def argField (w : Word16) : Byte := w.extractLsb' 0 8

/-- R80: the word with `OP` in bits 15..8 and `ARG` in bits 7..0. -/
def commandWord (op arg : Byte) : Word16 := op ++ arg

/-- Why a word is ILLEGAL: the two classes of R86. -/
inductive IllegalWord where
  /-- R86 (a): `OP` is not in R82; the reserved CRC5 slot 0x04 is one of these. -/
  | undefinedOpcode (op arg : Byte)
  /-- R86 (b): `OP` takes no operand and `ARG` ≠ 0x00. -/
  | nonzeroArgument (op arg : Byte)
  deriving DecidableEq, Repr

/-- A command without operand: `ARG` must be 0x00 (R81 d). -/
def noOperand (op arg : Byte) (i : Instr) : Except IllegalWord Instr :=
  if arg = 0x00 then .ok i else .error (.nonzeroArgument op arg)

/-- R84: decode compares the whole `OP` field (R83). -/
def decode (w : Word16) : Except IllegalWord Instr :=
  let op := opField w
  let arg := argField w
  match op with
  | 0x00#8 => noOperand op arg .nop
  | 0x01#8 => noOperand op arg .crcInit
  | 0x02#8 => .ok (.crcByte arg)
  | 0x03#8 => noOperand op arg .crcRead
  | 0x10#8 => .ok (.reqRead arg)
  | 0x20#8 => noOperand op arg .rxClear
  | 0x21#8 => .ok (.rxPush arg)
  | 0x22#8 => noOperand op arg .rxDecode
  | 0x30#8 => .ok (.rdReg arg)
  | _ => .error (.undefinedOpcode op arg)

/-- The word of a command, from the encodings of R82. -/
def encode : Instr → Word16
  | .nop => commandWord 0x00 0x00
  | .crcInit => commandWord 0x01 0x00
  | .crcByte b => commandWord 0x02 b
  | .crcRead => commandWord 0x03 0x00
  | .reqRead i => commandWord 0x10 i
  | .rxClear => commandWord 0x20 0x00
  | .rxPush b => commandWord 0x21 b
  | .rxDecode => commandWord 0x22 0x00
  | .rdReg r => commandWord 0x30 r

/-- The command the decoder reads from the word whose bits are `w`, numbered as spec/opcode_table.json numbers them: a
command is one 16-bit word, so bits 15..0 are the whole of it (log 10). -/
def decodeTableWord (nbits w : Nat) : Option Instr :=
  match decode (BitVec.ofNat 16 (w % 2 ^ nbits)) with
  | .ok i => some i
  | .error _ => none

end Sys2Proof
end

