-- ==== Sys2Proof/Machine/State.lean ====
section
/-! DEFINITION. The state of the block as plain data: the registers of R32 and R45, and two fields of the model's own,
the inputs the host still presents and the response to the command just executed. -/

namespace Sys2Proof.Machine

/-- The six status codes of R210, by name. -/
inductive Status where
  /-- `OK`. -/
  | ok
  /-- `ERR_ILLEGAL`: any illegal word. -/
  | errIllegal
  /-- `ERR_RANGE`: a ROM index or register number out of range, or an unfilled buffer slot. -/
  | errRange
  /-- `ERR_RX_OVERRUN`: a push into a full buffer. -/
  | errRxOverrun
  /-- `ERR_READ_SHORT`: a decode with fewer than 9 bytes. -/
  | errReadShort
  /-- `ERR_CRC_MISMATCH`: a decode of 9 bytes whose CRC does not match. -/
  | errCrcMismatch
  deriving DecidableEq, Repr

/-- The outputs for one command (R42): `STAT` and `DOUT`. -/
structure Response where
  stat : Byte
  dout : Word16
  deriving DecidableEq, Repr

/-- What the host can do to the block in one step: present a command word (R30, R80), or assert reset (R261). -/
inductive HostInput where
  | command (w : Word16)
  | reset
  deriving DecidableEq, Repr

/-- R45: "The block never faults, halts or refuses in the model's sense. Each of its errors is a normal response that
the host reads". So there is no reason to fault, and this type has no constructor: nothing can raise a fault, which is
exact, neither safe nor unsafe (log 7). -/
inductive Fault where
  deriving DecidableEq, Repr

/-- Reasons a step can be refused. -/
inductive Refusal where
  /-- Raised by `exec` alone, for a command that has no meaning yet; no arm of `exec` raises it in this model. Safe: the
  machine stops where the block goes on. -/
  | notModelled (mnemonic : String)
  deriving DecidableEq, Repr

/-- The registers of R32 (R45 gives the widths), and the model's own `inputs` and `response`. `RXCNT` is the length of
`rxbuf` (R34, R45). -/
structure State where
  /-- `STATUS`: the status code of the most recent command (R40). -/
  status : Byte
  /-- `CRC`: the accumulator (R33). -/
  crc : Word16
  /-- `RXBUF[0..RXCNT-1]`: the bytes received, in arrival order (R34). -/
  rxbuf : List Byte
  /-- `VALID`: 1 exactly when the most recent RX_DECODE succeeded (R35). -/
  valid : BitVec 1
  /-- `HUM`: the raw humidity field (R36). -/
  hum : Word16
  /-- `TEMP`: the raw temperature field (R36). -/
  temp : Word16
  /-- `R_ADDR`: response byte 0 (R37). -/
  rAddr : Byte
  /-- `R_FUNC`: response byte 1 (R37). -/
  rFunc : Byte
  /-- `R_BCNT`: response byte 2 (R37). -/
  rBcnt : Byte
  /-- `RX_CRC`: the transmitted CRC of the last full-length frame (R38). -/
  rxCrc : Word16
  /-- `CALC_CRC`: the CRC computed over that frame's first 7 bytes (R38). -/
  calcCrc : Word16
  /-- `READ_COUNT`: successful decodes, modulo 2^32 (R39). -/
  readCount : Word32
  /-- The model's own: the inputs the host still presents, oldest first (R30, R91, R261; log 1). -/
  inputs : List HostInput
  /-- The model's own: `STAT` and `DOUT` of the most recent command since reset, none where there is none (R42; log 3). -/
  response : Option Response
  deriving DecidableEq, Repr

/-- R260: the state right after reset. The host has presented nothing and no command has been answered. -/
def State.reset : State where
  status := 0x00
  crc := 0xFFFF
  rxbuf := []
  valid := 0
  hum := 0x0000
  temp := 0x0000
  rAddr := 0x00
  rFunc := 0x00
  rBcnt := 0x00
  rxCrc := 0x0000
  calcCrc := 0x0000
  readCount := 0x00000000
  inputs := []
  response := none

end Sys2Proof.Machine
end

