-- ==== Sys2Proof/Machine/Ops.lean ====
section
/-! DEFINITION. The named operations over the state: answering a command (`respond`, which stands where another machine
takes an exception: R11, R212), the receive buffer, and the host's inputs. -/

namespace Sys2Proof.Machine

/-- The status code values of R210. -/
def statusCode : Status → Byte
  | .ok => 0x00
  | .errIllegal => 0x01
  | .errRange => 0x02
  | .errRxOverrun => 0x03
  | .errReadShort => 0x10
  | .errCrcMismatch => 0x11

/-- R11 `respond(st, d)`: "It sets `STATUS <- st`, drives the outputs `STAT = st` and `DOUT = d`, and makes no other
change." It is the whole error mechanism (R212, R216): there is no trap entry and no return. -/
def respond (st : Status) (d : Word16) (s : State) : State :=
  { s with status := statusCode st, response := some ⟨statusCode st, d⟩ }

/-- The number of bytes of a response frame, and of the receive buffer (R7, R34). -/
abbrev frameLength : Nat := 9

/-- `RXCNT`: the number of bytes in the receive buffer (R34). -/
abbrev State.rxcnt (s : State) : Nat := s.rxbuf.length

/-- The canonical form of the receive buffer: 0 ≤ `RXCNT` ≤ 9 (R34). -/
abbrev RxBuf.wf (b : List Byte) : Prop := b.length ≤ frameLength

/-- `RXBUF[RXCNT] <- b; RXCNT <- RXCNT + 1` (R161). -/
def pushByte (b : Byte) (s : State) : State := { s with rxbuf := s.rxbuf ++ [b] }

/-- `RXCNT <- 0; RXBUF <- []` (R160, R163). -/
def discardBuffer (s : State) : State := { s with rxbuf := [] }

/-- `RXBUF[i]`, a filled slot only: an index ≥ `RXCNT` holds no value (R34). -/
def rxSlot (s : State) (i : Nat) : Option Byte := s.rxbuf[i]?

/-- `CRC <- c`. -/
def setCrc (c : Word16) (s : State) : State := { s with crc := c }

/-- `READ_COUNT <- READ_COUNT + 1`, modulo 2^32 (R39). -/
def countRead (s : State) : State := { s with readCount := s.readCount + 1 }

/-- The host's next input, and the state once it is taken (R30: "in the order the host presents them"). -/
def nextInput (s : State) : Option (HostInput × State) :=
  match s.inputs with
  | [] => none
  | i :: rest => some (i, { s with inputs := rest })

/-- R261: asserting reset "applies rule R260 at once"; what the host goes on to present is the host's (log 4). -/
def assertReset (s : State) : State := { State.reset with inputs := s.inputs }

/-- The host presents a command word as the very next input. -/
def present (w : Word16) (s : State) : State := { s with inputs := .command w :: s.inputs }

end Sys2Proof.Machine
end

