-- ==== Sys2Proof/Machine/Flags.lean ====
section
/-! DEFINITION. The flags. `VALID` is the block's only flag (R35); FLAGS is the value RD_REG 0x03 returns and no register
of its own (R43). -/

namespace Sys2Proof.Machine

/-- `VALID <- 1`: RX_DECODE ends with OK (R35). -/
def setValid (s : State) : State := { s with valid := 1 }

/-- `VALID <- 0`: RX_DECODE ends with an error of its own (R35). -/
def clearValid (s : State) : State := { s with valid := 0 }

/-- R43: `FLAGS = zext_16(VALID)`. -/
def flagsWord (s : State) : Word16 := s.valid.setWidth 16

end Sys2Proof.Machine
end

