-- ==== Sys2Proof/Machine/Operands.lean ====
section
/-! DEFINITION. The operand forms of R81 and R85: a data byte, a request-ROM index and a register number, and what the two
index spaces hold (R41, R67, R191). "No operand is sign-extended, scaled or shifted." -/

namespace Sys2Proof.Machine

/-- R81 (a): a data byte is the 8-bit value itself. -/
def dataByte (arg : Byte) : Byte := arg

/-- R81 (b), (c) and R85: an index or register number is `zext_16(ARG)`. -/
def indexOperand (arg : Byte) : Word16 := arg.setWidth 16

/-- R10 `zext_16` of a byte. -/
def zext16 (b : Byte) : Word16 := b.setWidth 16

/-- `RXCNT` as a 16-bit value. -/
def countWord (n : Nat) : Word16 := BitVec.ofNat 16 n

/-- R41, R130: the request ROM, eight constant bytes. -/
def reqRom : List Byte := [0x01, 0x03, 0x00, 0x00, 0x00, 0x02, 0xC4, 0x0B]

/-- `REQ[i]` for i in 0..7, none for i in 8..255 (R67, R132). -/
def romByte (i : Word16) : Option Byte := reqRom[i.toNat]?

/-- The register numbered `r` (R32, R191), none where the number is unmapped or names an unfilled buffer slot. -/
def readReg (s : State) (r : Word16) : Option Word16 :=
  match r.toNat with
  | 0x00 => some (zext16 s.status)
  | 0x01 => some s.crc
  | 0x02 => some (countWord s.rxcnt)
  | 0x03 => some (flagsWord s)
  | 0x04 => some s.hum
  | 0x05 => some s.temp
  | 0x06 => some (zext16 s.rAddr)
  | 0x07 => some (zext16 s.rFunc)
  | 0x08 => some (zext16 s.rBcnt)
  | 0x09 => some s.rxCrc
  | 0x0A => some s.calcCrc
  | 0x0B => some (s.readCount.extractLsb' 0 16)
  | 0x0C => some (s.readCount.extractLsb' 16 16)
  | n => if 0x10 ≤ n ∧ n ≤ 0x18 then (rxSlot s (n - 0x10)).map zext16 else none

end Sys2Proof.Machine
end

