-- ==== Sys2Proof/Machine/Control.lean ====
section
/-! DEFINITION. Control and register access: NOP (R190), RD_REG (R191), and the answer to an illegal word (R193). -/

namespace Sys2Proof.Machine

/-- R190 `NOP`: `respond(OK, 0x0000)`. -/
def execNop (s : State) : Host.Outcome State Fault Refusal :=
  .next (respond .ok 0x0000 s)

/-- R191 `RD_REG r`: "every read sees the state before this command". -/
def execRdReg (r : Byte) (s : State) : Host.Outcome State Fault Refusal :=
  match readReg s (indexOperand r) with
  | some v => .next (respond .ok v s)
  | none => .next (respond .errRange 0x0000 s)

/-- R193: any word R84 classes ILLEGAL executes as `respond(ERR_ILLEGAL, 0x0000)`, and the block keeps running. -/
def execIllegal (s : State) : Host.Outcome State Fault Refusal :=
  .next (respond .errIllegal 0x0000 s)

end Sys2Proof.Machine
end

