-- ==== Sys2Proof/Machine/Crc.lean ====
section
/-! DEFINITION. The CRC-16/Modbus functions of R101-R103 and the commands of the CRC engine, R104-R106. -/

namespace Sys2Proof.Machine

/-- R7: the CRC initial value. -/
def crcInitial : Word16 := 0xFFFF

/-- R7: the CRC polynomial, reflected form. -/
def crcPolynomial : Word16 := 0xA001

/-- R101 `crc_bit`: the bit tested is the least significant bit of `c` before the shift, the XOR applies after it. -/
def crcBit (c : Word16) : Word16 :=
  if c.getLsbD 0 then (c >>> 1) ^^^ crcPolynomial else c >>> 1

/-- R102 `crc_step8`: `b` enters the low 8 bits, then eight bit steps. -/
def crcStep8 (c : Word16) (b : Byte) : Word16 := Nat.iterate crcBit 8 (c ^^^ zext16 b)

/-- R103 `crc16`: no final XOR and no bit reversal; 0xFFFF over no byte. -/
def crc16 (d : List Byte) : Word16 := d.foldl crcStep8 crcInitial

/-- R104 `CRC_INIT`: `CRC <- 0xFFFF; respond(OK, 0xFFFF)`. -/
def execCrcInit (s : State) : Host.Outcome State Fault Refusal :=
  .next (respond .ok crcInitial (setCrc crcInitial s))

/-- R105 `CRC_BYTE b`: `CRC <- crc_step8(CRC, b); respond(OK, CRC)`, with the new value as `DOUT`. -/
def execCrcByte (b : Byte) (s : State) : Host.Outcome State Fault Refusal :=
  let c := crcStep8 s.crc (dataByte b)
  .next (respond .ok c (setCrc c s))

/-- R106 `CRC_READ`: `respond(OK, CRC)`. -/
def execCrcRead (s : State) : Host.Outcome State Fault Refusal :=
  .next (respond .ok s.crc s)

end Sys2Proof.Machine
end

