-- ==== Sys2Proof/Machine/Request.lean ====
section
/-! DEFINITION. The request family: REQ_READ (R132). -/

namespace Sys2Proof.Machine

/-- R132 `REQ_READ i`: the byte of the request ROM, or ERR_RANGE for i in 8..255. -/
def execReqRead (i : Byte) (s : State) : Host.Outcome State Fault Refusal :=
  match romByte (indexOperand i) with
  | some b => .next (respond .ok (zext16 b) s)
  | none => .next (respond .errRange 0x0000 s)

end Sys2Proof.Machine
end

