-- ==== Sys2Proof/Machine/Frame.lean ====
section
/-! DEFINITION. The response frame as pure functions: field assembly (R151), validation (R152), extraction (R153), the
decode function with its checks in order (R155), the value of a raw field (R156) and the response encoder (R158). -/

namespace Sys2Proof.Machine

/-- R151 `be16`: the first byte is the high byte. -/
def be16 (hi lo : Byte) : Word16 := hi ++ lo

/-- R151 `le16`: the first byte is the low byte. -/
def le16 (lo hi : Byte) : Word16 := hi ++ lo

/-- `v[15:8]` (R9). -/
def highByte (v : Word16) : Byte := v.extractLsb' 8 8

/-- `v[7:0]` (R9). -/
def lowByte (v : Word16) : Byte := v.extractLsb' 0 8

/-- R150, R64: exactly 9 bytes, `F[0]` to `F[8]`, by the field each belongs to. -/
structure RawFrame where
  addr : Byte
  func : Byte
  bcnt : Byte
  humHi : Byte
  humLo : Byte
  tempHi : Byte
  tempLo : Byte
  crcFirst : Byte
  crcSecond : Byte
  deriving DecidableEq, Repr

/-- The first 9 bytes of a sequence as a frame, none where there are fewer (R155: a model of the pure function "reads only
`F[0..8]`"). -/
def frameOfBytes : List Byte → Option RawFrame
  | f0 :: f1 :: f2 :: f3 :: f4 :: f5 :: f6 :: f7 :: f8 :: _ => some ⟨f0, f1, f2, f3, f4, f5, f6, f7, f8⟩
  | _ => none

/-- `F[0..6]`: the bytes the CRC covers (R7, R150). -/
def payload (F : RawFrame) : List Byte := [F.addr, F.func, F.bcnt, F.humHi, F.humLo, F.tempHi, F.tempLo]

/-- The frame's 9 bytes in wire order (R64). -/
def frameBytes (F : RawFrame) : List Byte := payload F ++ [F.crcFirst, F.crcSecond]

/-- The CRC computed over the first 7 bytes (R152). -/
def computedCrc (F : RawFrame) : Word16 := crc16 (payload F)

/-- The transmitted CRC, low byte first (R61, R152). -/
def transmittedCrc (F : RawFrame) : Word16 := le16 F.crcFirst F.crcSecond

/-- R152 `validate`: the CRC and nothing else; no header byte is compared (R154). -/
def validate (F : RawFrame) : Bool := computedCrc F == transmittedCrc F

/-- What a successful decode yields (R155). -/
structure FrameFields where
  addr : Byte
  func : Byte
  bcnt : Byte
  hum : Word16
  temp : Word16
  deriving DecidableEq, Repr

/-- R153: the fields of a frame; humidity and temperature are big-endian (R60, C1). -/
def frameFields (F : RawFrame) : FrameFields where
  addr := F.addr
  func := F.func
  bcnt := F.bcnt
  hum := be16 F.humHi F.humLo
  temp := be16 F.tempHi F.tempLo

/-- The two errors the codec detects itself (R5 e, R155). -/
inductive FrameError where
  | readShort
  | crcMismatch
  deriving DecidableEq, Repr

/-- R155 `decode`: the length check first, then the CRC check, then the fields. -/
def decodeFrame (bytes : List Byte) : Except FrameError FrameFields :=
  match frameOfBytes bytes with
  | none => .error .readShort
  | some F => if validate F then .ok (frameFields F) else .error .crcMismatch

/-- R158 `encode_response`, a specification function with no command. -/
def encodeResponse (a f n : Byte) (h t : Word16) : List Byte :=
  let p := [a, f, n, highByte h, lowByte h, highByte t, lowByte t]
  let c := crc16 p
  p ++ [lowByte c, highByte c]

/-- R10 `sint16`: two's complement, in -32768..32767. -/
def sint16 (v : Word16) : Int := if v.getLsbD 15 then (v.toNat : Int) - 65536 else v.toNat

/-- R156: a raw field stands for the exact rational `sint16(r) / 10`. The block stores the raw field, not this. -/
def fieldValue (r : Word16) : Rat := (sint16 r : Rat) / 10

end Sys2Proof.Machine
end

