-- ==== Sys2Proof/Machine/Response.lean ====
section
/-! DEFINITION. The response family: RX_CLEAR (R160), RX_PUSH (R161), RX_DECODE (R163). -/

namespace Sys2Proof.Machine

/-- R160 `RX_CLEAR`: `RXCNT <- 0; RXBUF <- []; respond(OK, 0x0000)`. -/
def execRxClear (s : State) : Host.Outcome State Fault Refusal :=
  .next (respond .ok 0x0000 (discardBuffer s))

/-- R161 `RX_PUSH b`: appends `b` and answers the new count; a full buffer drops `b` and answers ERR_RX_OVERRUN. -/
def execRxPush (b : Byte) (s : State) : Host.Outcome State Fault Refusal :=
  if s.rxcnt < frameLength then
    .next (respond .ok (countWord (s.rxcnt + 1)) (pushByte (dataByte b) s))
  else
    .next (respond .errRxOverrun 0x0009 s)

/-- R38: "Every `RX_DECODE` that finds `RXCNT = 9` latches both", whether the CRC check then passes or fails. -/
def latchCrcs (bytes : List Byte) (s : State) : State :=
  match frameOfBytes bytes with
  | none => s
  | some F => { s with rxCrc := transmittedCrc F, calcCrc := computedCrc F }

/-- The decoded registers of a successful decode (R36, R37, R163). -/
def latchFields (f : FrameFields) (s : State) : State :=
  { s with rAddr := f.addr, rFunc := f.func, rBcnt := f.bcnt, hum := f.hum, temp := f.temp }

/-- R163 and R35, an error of RX_DECODE: the buffer is discarded, VALID cleared, no decoded register touched. -/
def rejectFrame (st : Status) (d : Word16) (s : State) : State :=
  respond st d (clearValid (discardBuffer s))

/-- R163, success: the fields, VALID, READ_COUNT, and the buffer discarded. -/
def acceptFrame (f : FrameFields) (d : Word16) (s : State) : State :=
  respond .ok d (discardBuffer (countRead (setValid (latchFields f s))))

/-- R163 `RX_DECODE`, by the pure function `decodeFrame` as R165 asks. The length check comes before the CRC check, and
that before any decoded register is written (R164). The accumulator `CRC` is neither read nor written (R33). -/
def execRxDecode (s : State) : Host.Outcome State Fault Refusal :=
  let latched := latchCrcs s.rxbuf s
  match decodeFrame s.rxbuf with
  | .error .readShort => .next (rejectFrame .errReadShort (countWord s.rxcnt) latched)
  | .error .crcMismatch => .next (rejectFrame .errCrcMismatch latched.calcCrc latched)
  | .ok f => .next (acceptFrame f latched.calcCrc latched)

end Sys2Proof.Machine
end

