-- ==== Sys2Proof/Machine/Step.lean ====
section
/-! DEFINITION. One step. `command` is the spec's own step, one 16-bit word on one state (R45); `step` takes the host's
next input and runs it. -/

namespace Sys2Proof.Machine

/-- R45: every 16-bit word is a command; a word the encoding does not define is answered as R193 says. -/
def command (w : Word16) (s : State) : Host.Outcome State Fault Refusal :=
  match decode w with
  | .ok i => exec i s
  | .error _ => execIllegal s

/-- One step: the host's next input, a command (R30) or reset asserted (R261). Where the host presents nothing the block
does nothing (R30; log 2). -/
def step (s : State) : Host.Outcome State Fault Refusal :=
  match nextInput s with
  | none => .next s
  | some (.reset, t) => .next (assertReset t)
  | some (.command w, t) => command w t

/-- `s` with the word presented as the host's next input, so that `step` runs exactly it (log 1, log 10). -/
def State.withFetchWord (s : State) (nbits w : Nat) : State := present (BitVec.ofNat 16 (w % 2 ^ nbits)) s

end Sys2Proof.Machine
end

