-- ==== Sys2Proof/Config.lean ====
section
/-! DEFINITION. What an implementation fixes. The block itself has nothing open: every result, flag and register has a
value given by a rule, so there is no free value here. What the spec leaves OPEN belongs to the host (R8, D15, D21), and
a host layer takes it as an argument: `HostConfig`. -/

namespace Sys2Proof

/-- R223: what the host does on a fatal error. OPEN for the host (D15); the block behaves the same under both. -/
inductive FatalPolicy where
  /-- The reference behaviour: print a diagnostic and terminate the process. -/
  | failFast
  /-- The permitted variant: abandon the cycle and go on to the next one. -/
  | skipAndContinue
  deriving DecidableEq, Repr

/-- The OPEN parameters of the host (R8). No rule of the block depends on either. -/
structure HostConfig where
  /-- `FATAL_POLICY`. -/
  fatalPolicy : FatalPolicy
  /-- `POLL_INTERVAL_MS`, from the CLI. -/
  pollIntervalMs : Nat
  deriving DecidableEq, Repr

end Sys2Proof
end

