-- ==== Sys2Proof/Machine/Assembler.lean ====
section
/-! DEFINITION. What is written for the block and never seen by it: the pseudo-commands and their expansions (R89), the
escape `ILLEGAL w` (R88), a program as a list of words (R91), and the assembly text (R87), read from a line's characters. -/

namespace Sys2Proof.Machine

/-- The pseudo-commands of R89. -/
inductive Pseudo where
  | crcBlock (bytes : List Byte)
  | rxFrame (bytes : List Byte)
  | checkFrame (bytes : List Byte)
  | reqFrame
  | rdCount
  | rdReading
  deriving DecidableEq, Repr

/-- `RX_FRAME b0, ..., bk-1` (R89). -/
def rxFrameCommands (bytes : List Byte) : List Instr := .rxClear :: bytes.map .rxPush

/-- R89: each pseudo-command's expansion. -/
def expand : Pseudo → List Instr
  | .crcBlock bytes => .crcInit :: (bytes.map .crcByte ++ [.crcRead])
  | .rxFrame bytes => rxFrameCommands bytes
  | .checkFrame bytes => rxFrameCommands bytes ++ [.rxDecode]
  | .reqFrame => [.reqRead 0, .reqRead 1, .reqRead 2, .reqRead 3, .reqRead 4, .reqRead 5, .reqRead 6, .reqRead 7]
  | .rdCount => [.rdReg 0x0B, .rdReg 0x0C]
  | .rdReading => [.rdReg 0x03, .rdReg 0x04, .rdReg 0x05]

/-- One item of an assembly program. -/
inductive AsmItem where
  | instr (i : Instr)
  | pseudo (p : Pseudo)
  /-- R88: "`ILLEGAL w` is the only way to write an encoding outside rule R82 in assembly." -/
  | illegal (w : Word16)
  deriving DecidableEq, Repr

/-- R88: "the assembler must reject it when `w` selects a row of rule R82". -/
def asmWellFormed : AsmItem → Bool
  | .instr i => i.wellFormed
  | .pseudo p => (expand p).all Instr.wellFormed
  | .illegal w => !isCommandWord w

/-- The words an item assembles to, none where the assembler must reject it. -/
def assembleItem (a : AsmItem) : Option (List Word16) :=
  if asmWellFormed a then
    match a with
    | .instr i => some [encode i]
    | .pseudo p => some ((expand p).map encode)
    | .illegal w => some [w]
  else none

/-- R91: the encoding of a program is the list of its words in order. -/
def assemble : List AsmItem → Option (List Word16)
  | [] => some []
  | a :: rest =>
    match assembleItem a, assemble rest with
    | some ws, some more => some (ws ++ more)
    | _, _ => none

/-! ## The text of a line (R87); the lexical points R87 leaves open are log 12. -/

/-- The value of a hex digit. -/
def hexDigit (c : Char) : Option Nat :=
  let n := c.toNat
  if 0x30 ≤ n ∧ n ≤ 0x39 then some (n - 0x30)
  else if 0x41 ≤ n ∧ n ≤ 0x46 then some (n - 0x41 + 10)
  else if 0x61 ≤ n ∧ n ≤ 0x66 then some (n - 0x61 + 10)
  else none

/-- The value of a decimal digit. -/
def decimalDigit (c : Char) : Option Nat :=
  let n := c.toNat
  if 0x30 ≤ n ∧ n ≤ 0x39 then some (n - 0x30) else none

/-- A number of at least one digit in a base, most significant digit first. -/
def numberIn (base : Nat) (digit : Char → Option Nat) (cs : List Char) : Option Nat :=
  if cs.isEmpty then none
  else cs.foldl (fun acc c => match acc, digit c with
    | some n, some d => some (n * base + d)
    | _, _ => none) (some 0)

/-- R87: "`0x` followed by 1-2 hex digits, or as a decimal number in 0..255". -/
def parseOperand : List Char → Option Byte
  | '0' :: 'x' :: ds => if ds.length ≤ 2 then (numberIn 16 hexDigit ds).map (BitVec.ofNat 8) else none
  | ds =>
    match numberIn 10 decimalDigit ds with
    | some n => if n ≤ 255 then some (BitVec.ofNat 8 n) else none
    | none => none

/-- R88: `w` is "written as `0x` and 4 hex digits". -/
def parseWord : List Char → Option Word16
  | '0' :: 'x' :: ds => if ds.length = 4 then (numberIn 16 hexDigit ds).map (BitVec.ofNat 16) else none
  | _ => none

/-- Operands separated by commas (R89). -/
def parseOperands : List (List Char) → Option (List Byte)
  | [] => some []
  | [t] => (parseOperand t).map fun b => [b]
  | t :: comma :: rest =>
    if comma = [','] then
      match parseOperand t, parseOperands rest with
      | some b, some bs => if bs.isEmpty then none else some (b :: bs)
      | _, _ => none
    else none

/-- R87: "A `;` starts a comment that runs to the end of the line." -/
def stripComment (line : List Char) : List Char := line.takeWhile fun c => c != ';'

/-- The words of a line: blanks separate them and a comma is a word of its own. -/
def lineWords (line : List Char) : List (List Char) :=
  let flush : List Char → List (List Char) → List (List Char) := fun cur done =>
    if cur.isEmpty then done else cur.reverse :: done
  let (cur, done) := line.foldl (fun (acc : List Char × List (List Char)) c =>
    if c = ' ' ∨ c = '\t' then ([], flush acc.1 acc.2)
    else if c = ',' then ([], [','] :: flush acc.1 acc.2)
    else (c :: acc.1, acc.2)) ([], [])
  (flush cur done).reverse

/-- The mnemonics that take no operand. -/
def bareMnemonics : List (List Char × AsmItem) :=
  [(['N', 'O', 'P'], .instr .nop), (['C', 'R', 'C', '_', 'I', 'N', 'I', 'T'], .instr .crcInit),
   (['C', 'R', 'C', '_', 'R', 'E', 'A', 'D'], .instr .crcRead), (['R', 'X', '_', 'C', 'L', 'E', 'A', 'R'], .instr .rxClear),
   (['R', 'X', '_', 'D', 'E', 'C', 'O', 'D', 'E'], .instr .rxDecode),
   (['R', 'E', 'Q', '_', 'F', 'R', 'A', 'M', 'E'], .pseudo .reqFrame),
   (['R', 'D', '_', 'C', 'O', 'U', 'N', 'T'], .pseudo .rdCount),
   (['R', 'D', '_', 'R', 'E', 'A', 'D', 'I', 'N', 'G'], .pseudo .rdReading)]

/-- "the four operand forms" (R87) and the pseudo-commands with a list of bytes (R89). -/
def withOperands (name : List Char) (bytes : List Byte) : Option AsmItem :=
  if name = ['C', 'R', 'C', '_', 'B', 'L', 'O', 'C', 'K'] then some (.pseudo (.crcBlock bytes))
  else if name = ['R', 'X', '_', 'F', 'R', 'A', 'M', 'E'] then some (.pseudo (.rxFrame bytes))
  else if name = ['C', 'H', 'E', 'C', 'K', '_', 'F', 'R', 'A', 'M', 'E'] then some (.pseudo (.checkFrame bytes))
  else
    match bytes with
    | [b] =>
      if name = ['C', 'R', 'C', '_', 'B', 'Y', 'T', 'E'] then some (.instr (.crcByte b))
      else if name = ['R', 'E', 'Q', '_', 'R', 'E', 'A', 'D'] then some (.instr (.reqRead b))
      else if name = ['R', 'X', '_', 'P', 'U', 'S', 'H'] then some (.instr (.rxPush b))
      else if name = ['R', 'D', '_', 'R', 'E', 'G'] then some (.instr (.rdReg b))
      else none
    | _ => none

/-- A line as the items it holds, none where it is not assembly (R87, R88). A blank line, a comment and a label hold none. -/
def parseLine (line : List Char) : Option (List AsmItem) :=
  match lineWords (stripComment line) with
  | [] => some []
  | name :: args =>
    if args.isEmpty ∧ 2 ≤ name.length ∧ name.getLast? = some ':' then some []
    else if name = ['I', 'L', 'L', 'E', 'G', 'A', 'L'] then
      match args with
      | [t] => (parseWord t).map fun w => [.illegal w]
      | _ => none
    else
      match args.isEmpty, bareMnemonics.lookup name with
      | true, some item => some [item]
      | false, some _ => none
      | _, none =>
        match parseOperands args with
        | some bytes => (withOperands name bytes).map fun item => [item]
        | none => none

/-- The words a line assembles to, none where the assembler rejects the line. -/
def assembleLine (line : List Char) : Option (List Word16) :=
  match parseLine line with
  | some items => assemble items
  | none => none

/-- One hex digit, upper-case as the listings of 95_test_vectors.md write it. -/
def hexChar (n : Nat) : Char := if n < 10 then Char.ofNat (0x30 + n) else Char.ofNat (0x41 + n - 10)

/-- R87: "A listing writes each command's encoding as 4 hex digits". -/
def listingOf (w : Word16) : List Char :=
  let n := w.toNat
  [hexChar (n / 4096 % 16), hexChar (n / 256 % 16), hexChar (n / 16 % 16), hexChar (n % 16)]

end Sys2Proof.Machine
end

