-- ==== Sys2Proof/Machine/PollCycle.lean ====
section
/-! DEFINITION. The host contract of 60_exceptions.md as a layer over the block (log 11): the host's errors (R211), its
poll cycle (R221), its fatal-error policy (R223) and its start-up (R263). It drives the block only through `command`.
What the channel answers is a draw (U6, U7, U8): an argument. -/

namespace Sys2Proof.Machine

/-- The five errors of the source's taxonomy; the first three are detected by the host alone (R211). -/
inductive HostError where
  | channelOpen
  | channelConfig
  | writeShort (accepted : Nat)
  | readShort
  | crcMismatch
  deriving DecidableEq, Repr

/-- R211, R210: the status value of each error; "no block command returns" the first three. -/
def hostErrorCode : HostError → Byte
  | .channelOpen => 0x20
  | .channelConfig => 0x21
  | .writeShort _ => 0x22
  | .readShort => statusCode .errReadShort
  | .crcMismatch => statusCode .errCrcMismatch

/-- R166: a Reading is the values of HUM and TEMP together with READ_COUNT. -/
structure Reading where
  hum : Word16
  temp : Word16
  count : Word32
  deriving DecidableEq, Repr

/-- What the host does that is no command: the channel and the delays (R221, R224). -/
inductive HostAction where
  | write (bytes : List Byte)
  | sleep (ms : Nat)
  | read (maxLength : Nat)
  | emit (r : Reading)
  deriving DecidableEq, Repr

/-- What the channel answers in one cycle: any value (U6, U7, U8). -/
structure Draw where
  /-- What `write` returns. -/
  accepted : Nat
  /-- What `read(9)` returns. -/
  received : List Byte
  deriving DecidableEq, Repr

/-- R224: `read` returns "0 or more available bytes, at most `max_len`". -/
abbrev Draw.wf (d : Draw) : Prop := d.received.length ≤ frameLength

/-- R8, R269: a fixed duration, from the source. -/
def interFrameDelayMs : Nat := 100

/-- How a cycle ends before its last delay (R221). -/
inductive CycleEnd where
  | completed
  | failed (e : HostError)
  deriving DecidableEq, Repr

/-- A cycle's effect on the block, what the host did on the channel, in order, and how the cycle ended. -/
structure CycleResult where
  state : State
  actions : List HostAction
  ending : CycleEnd
  deriving DecidableEq, Repr

/-- Go on with what an outcome holds, where it is a next state. -/
def onNext {α β : Type} (o : Host.Outcome α Fault Refusal) (k : α → Host.Outcome β Fault Refusal) :
    Host.Outcome β Fault Refusal :=
  match o with
  | .next a => k a
  | .fault r => .fault r
  | .refused r => .refused r

/-- The host issues a command list (R91) and collects each command's response. -/
def issue : List Instr → State → Host.Outcome (State × List Response) Fault Refusal
  | [], s => .next (s, [])
  | i :: rest, s =>
    onNext (command (encode i) s) fun t =>
      onNext (issue rest t) fun u => .next (u.1, t.response.toList ++ u.2)

/-- The Reading in the responses of RD_READING and RD_COUNT, in that order: FLAGS, HUM, TEMP, then the count's low half
and its high half (R89). -/
def readingOf (responses : List Response) : Option Reading :=
  match responses with
  | [_, hum, temp, low, high] => some ⟨hum.dout, temp.dout, high.dout ++ low.dout⟩
  | _ => none

/-- Steps 2 to 5 of R221: delay, receive, validate and decode, and the Reading emitted. -/
def receivePart (d : Draw) (s : State) (sent : List HostAction) : Host.Outcome CycleResult Fault Refusal :=
  let actions := sent ++ [.sleep interFrameDelayMs, .read frameLength]
  onNext (issue (expand (.checkFrame d.received)) s) fun u =>
    if u.1.response.map Response.stat = some (statusCode .errReadShort) then .next ⟨u.1, actions, .failed .readShort⟩
    else if u.1.response.map Response.stat = some (statusCode .errCrcMismatch) then .next ⟨u.1, actions, .failed .crcMismatch⟩
    else
      onNext (issue (expand .rdReading ++ expand .rdCount) u.1) fun v =>
        .next ⟨v.1, actions ++ (readingOf v.2).toList.map HostAction.emit, .completed⟩

/-- One poll cycle, steps 1 to 5 of R221. A short write fails and "no read is attempted". -/
def pollCycle (d : Draw) (s : State) : Host.Outcome CycleResult Fault Refusal :=
  onNext (issue (expand .reqFrame) s) fun u =>
    let sent : List HostAction := [.write (u.2.map fun r => lowByte r.dout)]
    if d.accepted = 8 then receivePart d u.1 sent
    else .next ⟨u.1, sent, .failed (.writeShort d.accepted)⟩

/-- What the host does after a cycle (R221 step 6, R223). -/
inductive AfterCycle where
  /-- `FAIL_FAST`: a diagnostic, and the process terminates. -/
  | terminate (e : HostError)
  /-- `sleep(POLL_INTERVAL_MS); repeat from 1`. -/
  | repeatAfter (ms : Nat)
  deriving DecidableEq, Repr

/-- R223: `fail e` applies FATAL_POLICY to `e`; under SKIP_AND_CONTINUE the host "abandons the cycle at `fail` and goes
to step 6". -/
def afterCycle (cfg : HostConfig) : CycleEnd → AfterCycle
  | .completed => .repeatAfter cfg.pollIntervalMs
  | .failed e =>
    match cfg.fatalPolicy with
    | .failFast => .terminate e
    | .skipAndContinue => .repeatAfter cfg.pollIntervalMs

/-- A host run over a finite list of draws: the block's last state, everything the host did, and the error that ended the
process where one did (R226: under FAIL_FAST it ends at the first `fail`). -/
structure PollRun where
  state : State
  actions : List HostAction
  stoppedBy : Option HostError
  deriving DecidableEq, Repr

/-- The poll loop (R221, R223). -/
def pollLoop (cfg : HostConfig) : List Draw → State → Host.Outcome PollRun Fault Refusal
  | [], s => .next ⟨s, [], none⟩
  | d :: rest, s =>
    onNext (pollCycle d s) fun c =>
      match afterCycle cfg c.ending with
      | .terminate e => .next ⟨c.state, c.actions, some e⟩
      | .repeatAfter ms =>
        onNext (pollLoop cfg rest c.state) fun r =>
          .next ⟨r.state, c.actions ++ .sleep ms :: r.actions, r.stoppedBy⟩

/-- R263: open the channel, then configure it, then the first cycle. -/
def startUp (openOk configOk : Bool) : Option HostError :=
  if !openOk then some .channelOpen
  else if !configOk then some .channelConfig
  else none

end Sys2Proof.Machine
end

