-- ==== Sys2Proof/Safety.lean ====
section
/-! DEFINITION. The terms claims are stated in: the invariant of the machine, and what a list of words pushed, folded into
the accumulator or decoded. A run of the block is safe when every step answers a next state (R45, R213); there is nothing
else to be safe from, since the block has no fault. -/

namespace Sys2Proof.Machine

/-- R210: "The codes are these, and only these". -/
abbrev IsStatusCode (b : Byte) : Prop :=
  b = 0x00 ∨ b = 0x01 ∨ b = 0x02 ∨ b = 0x03 ∨ b = 0x10 ∨ b = 0x11

/-- The seven payload bytes the decoded registers stand for (R36, R37, R64). -/
def decodedPayload (s : State) : List Byte :=
  [s.rAddr, s.rFunc, s.rBcnt, highByte s.hum, lowByte s.hum, highByte s.temp, lowByte s.temp]

/-- What holds of the block in every state a run reaches. -/
abbrev State.Inv (s : State) : Prop :=
  -- R34: 0 ≤ RXCNT ≤ 9 always holds.
  RxBuf.wf s.rxbuf ∧
  -- R210: every other code value is never produced.
  IsStatusCode s.status ∧
  -- R42: STAT always equals the new STATUS.
  (∀ r ∈ s.response, r.stat = s.status) ∧
  -- R35, R36, R37, R38: while VALID = 1 the decoded registers are those of a frame whose CRC matched.
  (s.valid = 1 → s.calcCrc = crc16 (decodedPayload s) ∧ s.rxCrc = s.calcCrc) ∧
  -- R260, R261: until a command has been executed since reset, every register is at its reset value.
  (s.response = none → { s with inputs := [] } = State.reset)

/-- The words as inputs the host presents, in order (R91). -/
def presented (ws : List Word16) : List HostInput := ws.map .command

/-- The next `n` steps: `core.run n` on the block's own types (`core_run_eq_steps`). -/
def steps : Nat → State → Host.Outcome State Fault Refusal
  | 0, s => .next s
  | n + 1, s => onNext (step s) (steps n)

/-- The block run on a program: its words presented in order, "one command per step" (R91). -/
def runWords (ws : List Word16) (s : State) : Host.Outcome State Fault Refusal :=
  steps ws.length { s with inputs := presented ws }

/-- The bytes the CRC_BYTE words of a list fold into the accumulator, in order (R107). -/
def crcBytes : List Word16 → List Byte
  | [] => []
  | w :: ws =>
    match decode w with
    | .ok (.crcByte b) => b :: crcBytes ws
    | _ => crcBytes ws

/-- The bytes the RX_PUSH words of a list push, in order (R165). -/
def pushedBytes : List Word16 → List Byte
  | [] => []
  | w :: ws =>
    match decode w with
    | .ok (.rxPush b) => b :: pushedBytes ws
    | _ => pushedBytes ws

/-- The next step runs an RX_DECODE that ends with OK: a successful decode (R14). -/
def decodesNow (s : State) : Bool :=
  match s.inputs with
  | .command w :: _ =>
    match decode w, decodeFrame s.rxbuf with
    | .ok .rxDecode, .ok _ => true
    | _, _ => false
  | _ => false

/-- How many of the next `n` steps are successful decodes (R39). -/
def successfulDecodes : Nat → State → Nat
  | 0, _ => 0
  | n + 1, s =>
    match step s with
    | .next t => (if decodesNow s then 1 else 0) + successfulDecodes n t
    | .fault _ => 0
    | .refused _ => 0

/-- `zeros(n)` (R109). -/
def zeroBytes (n : Nat) : List Byte := List.replicate n 0x00

/-- Bytewise XOR of two sequences (R109). -/
def xorBytes (a b : List Byte) : List Byte := List.zipWith (fun x y => x ^^^ y) a b

/-- How many of the 9 byte positions two frames differ at (R110). -/
def byteDifferences (F G : RawFrame) : Nat :=
  ((frameBytes F).zip (frameBytes G)).countP fun p => p.1 != p.2

/-- How many of the 72 bit positions two frames differ at (R110). -/
def bitDifferences (F G : RawFrame) : Nat :=
  (((frameBytes F).zip (frameBytes G)).map fun p =>
    (List.range 8).countP fun k => (p.1 ^^^ p.2).getLsbD k).sum

end Sys2Proof.Machine
end

