-- ==== Sys2Proof/Certificates/Slice0/Obligations.lean ====
section
/-! DEFINITION. The statements for the provers, from the numbered rules of the spec. A next state is written out as a
record update of the state before: what it does not name is unchanged, so every such equation states its frame too. -/

open Sys2Proof Sys2Proof.Machine

/-! ## Encoding and the step -/

/-- Every command's word decodes to that command with its operand whole, and is a defined word (R80, R82). -/
def Obligations.DecodeEncodeRoundTrip : Prop :=
  ∀ i : Instr, decode (encode i) = .ok i ∧ isCommandWord (encode i) = true

/-- R82: a word is a command exactly when it selects a row of the table, at most one row selects a word, and a word that
decodes is the one encoding of its command. -/
def Obligations.DecodesExactlyTheTablesWords : Prop :=
  (∀ w : Word16, (∃ i, decode w = .ok i) ↔ isCommandWord w = true) ∧
  (∀ w : Word16, (opcodeTable.filter fun row => row.selectedBy w).length ≤ 1) ∧
  (∀ (w : Word16) (i : Instr), decode w = .ok i → i.row.selectedBy w = true ∧ encode i = w)

/-- The pseudocode of R84, every word of it, and that what it calls ILLEGAL executes as R193. That the decoder rejects an
illegal word by name, with the two constructors of `IllegalWord`, is the model's choice (log 5). What REQ_READ and RD_REG
answer for an index out of range is stated by `ReqReadAnswersTheRom` and `RdRegReadsTheRegisterMap`. -/
def Obligations.DecodeFollowsThePseudocode : Prop :=
  (∀ op arg : Byte, decode (op ++ arg) =
    if op = 0x00 then (if arg = 0x00 then .ok .nop else .error (.nonzeroArgument op arg))
    else if op = 0x01 then (if arg = 0x00 then .ok .crcInit else .error (.nonzeroArgument op arg))
    else if op = 0x02 then .ok (.crcByte arg)
    else if op = 0x03 then (if arg = 0x00 then .ok .crcRead else .error (.nonzeroArgument op arg))
    else if op = 0x10 then .ok (.reqRead arg)
    else if op = 0x20 then (if arg = 0x00 then .ok .rxClear else .error (.nonzeroArgument op arg))
    else if op = 0x21 then .ok (.rxPush arg)
    else if op = 0x22 then (if arg = 0x00 then .ok .rxDecode else .error (.nonzeroArgument op arg))
    else if op = 0x30 then .ok (.rdReg arg)
    else .error (.undefinedOpcode op arg)) ∧
  (∀ (w : Word16) (e : IllegalWord) (s : State), decode w = .error e →
    command w s = .next { s with status := 0x01, response := some ⟨0x01, 0x0000⟩ })

/-- R86, R193: exactly these words are illegal, and each answers ERR_ILLEGAL with no other state change. -/
def Obligations.IllegalWordsAnswerErrIllegal : Prop :=
  ∀ op arg : Byte,
    let undefinedOp := (0x04 ≤ op.toNat ∧ op.toNat ≤ 0x0F) ∨ (0x11 ≤ op.toNat ∧ op.toNat ≤ 0x1F) ∨
      (0x23 ≤ op.toNat ∧ op.toNat ≤ 0x2F) ∨ (0x31 ≤ op.toNat ∧ op.toNat ≤ 0xFF)
    let operandless := op = 0x00 ∨ op = 0x01 ∨ op = 0x03 ∨ op = 0x20 ∨ op = 0x22
    let illegal := undefinedOp ∨ (operandless ∧ arg ≠ 0x00)
    (illegal → ∀ s : State,
      command (op ++ arg) s = .next { s with status := 0x01, response := some ⟨0x01, 0x0000⟩ }) ∧
    (¬ illegal → ∃ i, decode (op ++ arg) = .ok i)

/-- Words written out in the spec's programs and vectors (P1, P2, P4, P5, V13), against their commands. The names under
which the two illegal words are rejected are the model's choice (log 5). -/
def Obligations.WordsOfTheSpecDecode : Prop :=
  decode 0x0000 = .ok .nop ∧ decode 0x0100 = .ok .crcInit ∧ decode 0x0203 = .ok (.crcByte 0x03) ∧
  decode 0x0300 = .ok .crcRead ∧ decode 0x1006 = .ok (.reqRead 0x06) ∧ decode 0x10FF = .ok (.reqRead 0xFF) ∧
  decode 0x2000 = .ok .rxClear ∧ decode 0x21F4 = .ok (.rxPush 0xF4) ∧ decode 0x2200 = .ok .rxDecode ∧
  decode 0x300B = .ok (.rdReg 0x0B) ∧ decode 0x0401 = .error (.undefinedOpcode 0x04 0x01) ∧
  decode 0x2201 = .error (.nonzeroArgument 0x22 0x01)

/-- A step runs the command that the presented word decodes to, on the state with that input taken; `withFetchWord`
presents the word as the very next input. The list of inputs is the model's own (log 1). -/
def Obligations.StepRunsTheDecodedCommand : Prop :=
  (∀ (s : State) (w : Word16) (rest : List HostInput) (i : Instr), decode w = .ok i →
    step { s with inputs := .command w :: rest } = exec i { s with inputs := rest }) ∧
  (∀ (s : State) (w : Word16) (i : Instr), decode w = .ok i → step (s.withFetchWord 16 w.toNat) = exec i s)

/-- The model's choice (log 2), from R30: a step with nothing presented changes nothing. -/
def Obligations.NothingPresentedNothingChanges : Prop :=
  ∀ s : State, step { s with inputs := [] } = .next { s with inputs := [] }

/-- R69, R91: a program runs first to last, and what is presented later has no effect on what runs earlier. -/
def Obligations.ProgramsRunInOrder : Prop :=
  ∀ (ws vs : List Word16) (s : State), ∃ t u, runWords ws s = .next t ∧ runWords vs t = .next u ∧
    runWords (ws ++ vs) s = .next u

/-- R45, R213: whatever its state, whatever is presented, the block answers a next state; it never stops. -/
def Obligations.EveryStepAnswersANextState : Prop :=
  (∀ s : State, ∃ t, step s = .next t) ∧
  (∀ (w : Word16) (s : State), ∃ t d, command w s = .next t ∧ t.response = some ⟨t.status, d⟩)

/-! ## Reset -/

/-- R260: every register's reset value; no slot of the buffer can be read; the ROM is unaffected. -/
def Obligations.ResetLeavesTheStatedValues : Prop :=
  (let r := State.reset
   r.status = 0x00 ∧ r.crc = 0xFFFF ∧ r.rxcnt = 0 ∧ r.rxbuf = [] ∧ r.valid = 0 ∧ r.hum = 0x0000 ∧ r.temp = 0x0000 ∧
   r.rAddr = 0x00 ∧ r.rFunc = 0x00 ∧ r.rBcnt = 0x00 ∧ r.rxCrc = 0x0000 ∧ r.calcCrc = 0x0000 ∧
   r.readCount = 0x00000000) ∧
  (∀ k : Fin 9, exec (.rdReg (BitVec.ofNat 8 (0x10 + k.val))) State.reset =
    .next { State.reset with status := 0x02, response := some ⟨0x02, 0x0000⟩ }) ∧
  (∀ (i : Byte) (s t u : State), exec (.reqRead i) State.reset = .next t → exec (.reqRead i) s = .next u →
    t.response = u.response)

/-- R261: a step with reset asserted applies R260 and executes no command; nothing but reset and a successful decode
changes READ_COUNT. That the inputs after it stay the host's is the model's choice (log 4). -/
def Obligations.ResetInputAppliesReset : Prop :=
  (∀ (s : State) (rest : List HostInput),
    step { s with inputs := .reset :: rest } = .next { State.reset with inputs := rest }) ∧
  (∀ s t : State, step s = .next t →
    t.readCount = s.readCount ∨ (decodesNow s = true ∧ t.readCount = s.readCount + 1) ∨ s.inputs.head? = some .reset)

/-! ## CRC engine -/

/-- R101, R102, R103: the bit step, the byte step, the fold, and the source's known vector. -/
def Obligations.CrcFunctionsFollowTheRules : Prop :=
  (∀ c : Word16, crcBit c = if c.getLsbD 0 = true then (c >>> 1) ^^^ 0xA001#16 else c >>> 1) ∧
  (∀ (c : Word16) (b : Byte), crcStep8 c b =
    crcBit (crcBit (crcBit (crcBit (crcBit (crcBit (crcBit (crcBit (c ^^^ b.setWidth 16))))))))) ∧
  crc16 [] = 0xFFFF ∧
  (∀ (d : List Byte) (b : Byte), crc16 (d ++ [b]) = crcStep8 (crc16 d) b) ∧
  crc16 [0x01, 0x03, 0x00, 0x00, 0x00, 0x02] = 0x0BC4

/-- R104 CRC_INIT: its result, for the command and for its word with every ARG. -/
def Obligations.CrcInitSetsTheAccumulator : Prop :=
  (∀ s : State, exec .crcInit s =
    .next { s with crc := 0xFFFF, status := 0x00, response := some ⟨0x00, 0xFFFF⟩ }) ∧
  (∀ (arg : Byte) (s : State), command (0x01#8 ++ arg) s = .next (
    if arg = 0x00 then { s with crc := 0xFFFF, status := 0x00, response := some ⟨0x00, 0xFFFF⟩ }
    else { s with status := 0x01, response := some ⟨0x01, 0x0000⟩ }))

/-- R105 CRC_BYTE: its result from any accumulator, with the new value as DOUT; its zero corner cases and its example. -/
def Obligations.CrcByteFoldsOneByte : Prop :=
  (∀ (b : Byte) (s : State), exec (.crcByte b) s =
    .next { s with crc := crcStep8 s.crc b, status := 0x00, response := some ⟨0x00, crcStep8 s.crc b⟩ }) ∧
  (∀ (b : Byte) (s : State), command (0x02#8 ++ b) s =
    .next { s with crc := crcStep8 s.crc b, status := 0x00, response := some ⟨0x00, crcStep8 s.crc b⟩ }) ∧
  crcStep8 0xFFFF 0x00 = 0x40BF ∧ crcStep8 0x0000 0x00 = 0x0000 ∧ crcStep8 0xFFFF 0x01 = 0x807E

/-- R106 CRC_READ: its result, for the command and for its word with every ARG. -/
def Obligations.CrcReadReturnsTheAccumulator : Prop :=
  (∀ s : State, exec .crcRead s = .next { s with status := 0x00, response := some ⟨0x00, s.crc⟩ }) ∧
  (∀ (arg : Byte) (s : State), command (0x03#8 ++ arg) s = .next (
    if arg = 0x00 then { s with status := 0x00, response := some ⟨0x00, s.crc⟩ }
    else { s with status := 0x01, response := some ⟨0x01, 0x0000⟩ })) ∧
  command 0x0300 State.reset = .next { State.reset with status := 0x00, response := some ⟨0x00, 0xFFFF⟩ }

/-- R107: after CRC_INIT and CRC_BYTEs, whatever other commands stand between them, CRC is crc16 of those bytes. -/
def Obligations.AccumulatorLaw : Prop :=
  ∀ (ws : List Word16) (s : State), (∀ w ∈ ws, decode w ≠ .ok .crcInit) →
    ∃ t, runWords (0x0100 :: ws) s = .next t ∧ t.crc = crc16 (crcBytes ws)

/-- R262: straight after reset a CRC computation needs no CRC_INIT. -/
def Obligations.CrcAfterResetNeedsNoInit : Prop :=
  ∀ ws : List Word16, (∀ w ∈ ws, decode w ≠ .ok .crcInit) →
    ∃ t u, runWords ws State.reset = .next t ∧ t.crc = crc16 (crcBytes ws) ∧
      command 0x0300 t = .next u ∧ u.response = some ⟨0x00, crc16 (crcBytes ws)⟩

/-- R108: appending its CRC, low byte first, to any sequence gives CRC 0x0000, and on a frame that test and the comparison
of the two CRC values accept the same frames. -/
def Obligations.ResidueLaw : Prop :=
  (∀ d : List Byte, crc16 (d ++ [(crc16 d).extractLsb' 0 8, (crc16 d).extractLsb' 8 8]) = 0x0000) ∧
  (∀ F : RawFrame, crc16 (frameBytes F) = 0x0000 ↔ validate F = true)

/-- R109: crc16 is affine over sequences of one length. -/
def Obligations.CrcLinearity : Prop :=
  ∀ a b : List Byte, a.length = b.length →
    crc16 (xorBytes a b) = crc16 a ^^^ crc16 b ^^^ crc16 (zeroBytes a.length)

/-- R110: a frame at one bit, or at one byte, from a valid frame is never valid. -/
def Obligations.SingleErrorsAreDetected : Prop :=
  ∀ F G : RawFrame, validate F = true →
    (bitDifferences F G = 1 → validate G = false) ∧ (byteDifferences F G = 1 → validate G = false)

/-- R33, R112: CRC after a command depends on CRC and the word alone, and so do the answers of the CRC commands. -/
def Obligations.CrcDependsOnlyOnCrcAndTheWord : Prop :=
  ∀ (w : Word16) (s₁ s₂ : State), s₁.crc = s₂.crc →
    ∃ t₁ t₂, command w s₁ = .next t₁ ∧ command w s₂ = .next t₂ ∧ t₁.crc = t₂.crc ∧
      (decode w = .ok .crcInit ∨ decode w = .ok .crcRead ∨ (∃ b, decode w = .ok (.crcByte b)) →
        t₁.response = t₂.response)

/-! ## Request -/

/-- R132 REQ_READ, for every index, with the eight bytes of R130. -/
def Obligations.ReqReadAnswersTheRom : Prop :=
  let rom : List Word16 := [0x0001, 0x0003, 0x0000, 0x0000, 0x0000, 0x0002, 0x00C4, 0x000B]
  let after : Byte → State → State := fun i s =>
    match rom[i.toNat]? with
    | some v => { s with status := 0x00, response := some ⟨0x00, v⟩ }
    | none => { s with status := 0x02, response := some ⟨0x02, 0x0000⟩ }
  (∀ (i : Byte) (s : State), exec (.reqRead i) s = .next (after i s)) ∧
  (∀ (i : Byte) (s : State), command (0x10#8 ++ i) s = .next (after i s))

/-- R130, R131, R89: REQ_FRAME gives the 8 bytes of the request from any state and leaves every register but STATUS as it
was; the frame's CRC field is the CRC of the six bytes before it. -/
def Obligations.RequestFrameIsTheConstant : Prop :=
  (∀ s : State, issue (expand .reqFrame) s = .next ({ s with status := 0x00, response := some ⟨0x00, 0x000B⟩ },
    [⟨0x00, 0x0001⟩, ⟨0x00, 0x0003⟩, ⟨0x00, 0x0000⟩, ⟨0x00, 0x0000⟩, ⟨0x00, 0x0000⟩, ⟨0x00, 0x0002⟩,
     ⟨0x00, 0x00C4⟩, ⟨0x00, 0x000B⟩])) ∧
  le16 0xC4 0x0B = 0x0BC4 ∧ crc16 [0x01, 0x03, 0x00, 0x00, 0x00, 0x02] = 0x0BC4 ∧
  be16 0x00 0x00 = 0x0000 ∧ be16 0x00 0x02 = 0x0002

/-! ## Response -/

/-- R160 RX_CLEAR: its result, for the command and for its word with every ARG. -/
def Obligations.RxClearEmptiesTheBuffer : Prop :=
  (∀ s : State, exec .rxClear s = .next { s with rxbuf := [], status := 0x00, response := some ⟨0x00, 0x0000⟩ }) ∧
  (∀ (arg : Byte) (s : State), command (0x20#8 ++ arg) s = .next (
    if arg = 0x00 then { s with rxbuf := [], status := 0x00, response := some ⟨0x00, 0x0000⟩ }
    else { s with status := 0x01, response := some ⟨0x01, 0x0000⟩ }))

/-- R161 RX_PUSH: below 9 bytes it appends and answers the new count, otherwise it drops the byte; every slot but the one
it fills reads as before. -/
def Obligations.RxPushAppendsOrOverruns : Prop :=
  (∀ (b : Byte) (s : State), s.rxbuf.length < 9 → exec (.rxPush b) s = .next { s with
    rxbuf := s.rxbuf ++ [b], status := 0x00, response := some ⟨0x00, BitVec.ofNat 16 (s.rxbuf.length + 1)⟩ }) ∧
  (∀ (b : Byte) (s : State), 9 ≤ s.rxbuf.length →
    exec (.rxPush b) s = .next { s with status := 0x03, response := some ⟨0x03, 0x0009⟩ }) ∧
  (∀ (b : Byte) (s : State), command (0x21#8 ++ b) s = exec (.rxPush b) s) ∧
  (∀ (b : Byte) (s t : State), exec (.rxPush b) s = .next t → ∀ i, i ≠ s.rxbuf.length → t.rxbuf[i]? = s.rxbuf[i]?)

/-- R163 RX_DECODE: its three results, the frame's nine bytes named, and its word with every ARG. -/
def Obligations.RxDecodeValidatesAndDecodes : Prop :=
  (∀ s : State, s.rxbuf.length < 9 → exec .rxDecode s = .next { s with
    rxbuf := [], valid := 0, status := 0x10, response := some ⟨0x10, BitVec.ofNat 16 s.rxbuf.length⟩ }) ∧
  (∀ (s : State) (f0 f1 f2 f3 f4 f5 f6 f7 f8 : Byte),
    let full := { s with rxbuf := [f0, f1, f2, f3, f4, f5, f6, f7, f8] }
    let computed := crc16 [f0, f1, f2, f3, f4, f5, f6]
    let rx : Word16 := f8 ++ f7
    (computed ≠ rx → exec .rxDecode full = .next { full with
      rxCrc := rx, calcCrc := computed, rxbuf := [], valid := 0, status := 0x11, response := some ⟨0x11, computed⟩ }) ∧
    (computed = rx → exec .rxDecode full = .next { full with
      rxCrc := rx, calcCrc := computed, rAddr := f0, rFunc := f1, rBcnt := f2, hum := f3 ++ f4, temp := f5 ++ f6,
      valid := 1, readCount := s.readCount + 1, rxbuf := [], status := 0x00, response := some ⟨0x00, computed⟩ })) ∧
  (∀ (arg : Byte) (s : State), (arg = 0x00 → command (0x22#8 ++ arg) s = exec .rxDecode s) ∧
    (arg ≠ 0x00 → command (0x22#8 ++ arg) s = .next { s with status := 0x01, response := some ⟨0x01, 0x0000⟩ }))

/-- R164: a short frame always reports ERR_READ_SHORT, and a frame that fails never changes a decoded register. -/
def Obligations.DecodeChecksInOrder : Prop :=
  ∀ s t : State, exec .rxDecode s = .next t →
    (s.rxbuf.length < 9 → t.status = 0x10 ∧ t.rxCrc = s.rxCrc ∧ t.calcCrc = s.calcCrc) ∧
    (9 ≤ s.rxbuf.length → t.status ≠ 0x10) ∧
    (t.status ≠ 0x00 → t.hum = s.hum ∧ t.temp = s.temp ∧ t.rAddr = s.rAddr ∧ t.rFunc = s.rFunc ∧
      t.rBcnt = s.rBcnt ∧ t.readCount = s.readCount)

/-- R151, R152, R153, R154, R155: the pure decode function, its length check first, its CRC check second and no other;
bytes past the ninth are not read. -/
def Obligations.PureDecodeChecksLengthThenCrc : Prop :=
  (∀ bytes : List Byte, bytes.length < 9 → decodeFrame bytes = .error .readShort) ∧
  (∀ (f0 f1 f2 f3 f4 f5 f6 f7 f8 : Byte) (rest : List Byte),
    decodeFrame (f0 :: f1 :: f2 :: f3 :: f4 :: f5 :: f6 :: f7 :: f8 :: rest) =
      if crc16 [f0, f1, f2, f3, f4, f5, f6] = f8 ++ f7
      then .ok ⟨f0, f1, f2, f3 ++ f4, f5 ++ f6⟩ else .error .crcMismatch)

/-- R156: a raw field is two's complement in tenths, exactly; its range and the spec's examples. -/
def Obligations.FieldValueIsExactTenths : Prop :=
  (∀ r : Word16, fieldValue r = (r.toInt : Rat) / 10) ∧
  (∀ r : Word16, -32768 / 10 ≤ fieldValue r ∧ fieldValue r ≤ 32767 / 10) ∧
  fieldValue 0x01F4 = 50 ∧ fieldValue 0x00C8 = 20 ∧ fieldValue 0xFF9C = -10 ∧ fieldValue 0x8000 = -32768 / 10 ∧
  fieldValue 0x7FFF = 32767 / 10 ∧ fieldValue 0xFFFF = -1 / 10

/-- R158: what the encoder lays out, decode gives back, with both values exact. -/
def Obligations.ResponseRoundTrip : Prop :=
  ∀ (a f n : Byte) (h t : Word16),
    (let p := [a, f, n, h.extractLsb' 8 8, h.extractLsb' 0 8, t.extractLsb' 8 8, t.extractLsb' 0 8]
     encodeResponse a f n h t = p ++ [(crc16 p).extractLsb' 0 8, (crc16 p).extractLsb' 8 8]) ∧
    decodeFrame (encodeResponse a f n h t) = .ok ⟨a, f, n, h, t⟩ ∧
    fieldValue h = (h.toInt : Rat) / 10 ∧ fieldValue t = (t.toInt : Rat) / 10

/-- S7, R158 through the block: CHECK_FRAME of an encoded response leaves exactly its fields in the registers. -/
def Obligations.EncodedResponseDecodesThroughTheBlock : Prop :=
  ∀ (s : State) (a f n : Byte) (h t : Word16),
    let p := [a, f, n, h.extractLsb' 8 8, h.extractLsb' 0 8, t.extractLsb' 8 8, t.extractLsb' 0 8]
    runWords ((expand (.checkFrame (encodeResponse a f n h t))).map encode) s = .next { s with
      inputs := [], rxbuf := [], rAddr := a, rFunc := f, rBcnt := n, hum := h, temp := t, valid := 1,
      readCount := s.readCount + 1, rxCrc := crc16 p, calcCrc := crc16 p, status := 0x00,
      response := some ⟨0x00, crc16 p⟩ }

/-- R165, R162: RX_DECODE after any commands that neither clear nor decode agrees with the pure function on the bytes they
pushed, truncated to the first 9. -/
def Obligations.DecodeAgreesWithThePureFunction : Prop :=
  ∀ (ws : List Word16) (s : State), (∀ w ∈ ws, decode w ≠ .ok .rxClear ∧ decode w ≠ .ok .rxDecode) →
    ∃ t, runWords (ws ++ [0x2200]) { s with rxbuf := [] } = .next t ∧ t.rxbuf = [] ∧
      match decodeFrame ((pushedBytes ws).take 9) with
      | .ok f => t.status = 0x00 ∧ t.valid = 1 ∧ t.rAddr = f.addr ∧ t.rFunc = f.func ∧ t.rBcnt = f.bcnt ∧
          t.hum = f.hum ∧ t.temp = f.temp
      | .error .readShort => t.status = 0x10 ∧ t.valid = 0
      | .error .crcMismatch => t.status = 0x11 ∧ t.valid = 0

/-- R90: RX_FRAME keeps the first 9 bytes and answers ERR_RX_OVERRUN for each later push; CHECK_FRAME of fewer than 9
ends in ERR_READ_SHORT. -/
def Obligations.RxFrameKeepsTheFirstNineBytes : Prop :=
  ∀ (bytes : List Byte) (s : State), ∃ t rs, issue (expand (.rxFrame bytes)) s = .next (t, rs) ∧
    t.rxbuf = bytes.take 9 ∧
    rs = ⟨0x00, 0x0000⟩ :: (List.range bytes.length).map (fun k =>
      if k < 9 then ⟨0x00, BitVec.ofNat 16 (k + 1)⟩ else ⟨0x03, 0x0009⟩) ∧
    (bytes.length < 9 → ∃ u us, issue (expand (.checkFrame bytes)) s = .next (u, us) ∧ u.status = 0x10)

/-- R89: the DOUT of CRC_BLOCK's final CRC_READ is crc16 of its bytes. -/
def Obligations.CrcBlockAnswersCrc16 : Prop :=
  ∀ (bytes : List Byte) (s : State), ∃ t rs, issue (expand (.crcBlock bytes)) s = .next (t, rs) ∧
    t.crc = crc16 bytes ∧ rs.getLast? = some ⟨0x00, crc16 bytes⟩ ∧ rs.length = bytes.length + 2

/-- R268: every RX_DECODE discards the buffer, so no slot can be read after it. -/
def Obligations.DecodeDiscardsTheBuffer : Prop :=
  ∀ s : State, ∃ t, exec .rxDecode s = .next t ∧ t.rxbuf = [] ∧
    ∀ k : Fin 9, exec (.rdReg (BitVec.ofNat 8 (0x10 + k.val))) t =
      .next { t with status := 0x02, response := some ⟨0x02, 0x0000⟩ }

/-! ## Control and register access -/

/-- R190 NOP: its result, for the command and for its word with every ARG. -/
def Obligations.NopOnlyAnswersOk : Prop :=
  (∀ s : State, exec .nop s = .next { s with status := 0x00, response := some ⟨0x00, 0x0000⟩ }) ∧
  (∀ (arg : Byte) (s : State), command (0x00#8 ++ arg) s = .next (
    if arg = 0x00 then { s with status := 0x00, response := some ⟨0x00, 0x0000⟩ }
    else { s with status := 0x01, response := some ⟨0x01, 0x0000⟩ }))

/-- R191 RD_REG, for every register number; every read sees the state before the command. -/
def Obligations.RdRegReadsTheRegisterMap : Prop :=
  ∀ (r : Byte) (s : State),
    let answer : Word16 → Host.Outcome State Fault Refusal := fun v =>
      .next { s with status := 0x00, response := some ⟨0x00, v⟩ }
    let range : Host.Outcome State Fault Refusal :=
      .next { s with status := 0x02, response := some ⟨0x02, 0x0000⟩ }
    command (0x30#8 ++ r) s = exec (.rdReg r) s ∧
    exec (.rdReg r) s =
      if r = 0x00 then answer (s.status.setWidth 16)
      else if r = 0x01 then answer s.crc
      else if r = 0x02 then answer (BitVec.ofNat 16 s.rxbuf.length)
      else if r = 0x03 then answer (s.valid.setWidth 16)
      else if r = 0x04 then answer s.hum
      else if r = 0x05 then answer s.temp
      else if r = 0x06 then answer (s.rAddr.setWidth 16)
      else if r = 0x07 then answer (s.rFunc.setWidth 16)
      else if r = 0x08 then answer (s.rBcnt.setWidth 16)
      else if r = 0x09 then answer s.rxCrc
      else if r = 0x0A then answer s.calcCrc
      else if r = 0x0B then answer (s.readCount.extractLsb' 0 16)
      else if r = 0x0C then answer (s.readCount.extractLsb' 16 16)
      else if 0x10 ≤ r.toNat ∧ r.toNat ≤ 0x18 then
        match s.rxbuf[r.toNat - 0x10]? with
        | some b => answer (b.setWidth 16)
        | none => range
      else range

/-- R32, R192: each register is changed only by the commands its row of the register table names. -/
def Obligations.RegistersChangeOnlyByTheirWriters : Prop :=
  ∀ (w : Word16) (s t : State), command w s = .next t →
    (t.crc ≠ s.crc → decode w = .ok .crcInit ∨ ∃ b, decode w = .ok (.crcByte b)) ∧
    (t.rxbuf ≠ s.rxbuf → decode w = .ok .rxClear ∨ decode w = .ok .rxDecode ∨
      ((∃ b, decode w = .ok (.rxPush b)) ∧ s.rxbuf.length < 9)) ∧
    (t.valid ≠ s.valid → decode w = .ok .rxDecode) ∧
    (t.hum ≠ s.hum ∨ t.temp ≠ s.temp ∨ t.rAddr ≠ s.rAddr ∨ t.rFunc ≠ s.rFunc ∨ t.rBcnt ≠ s.rBcnt ∨
      t.readCount ≠ s.readCount → decode w = .ok .rxDecode ∧ t.status = 0x00) ∧
    (t.rxCrc ≠ s.rxCrc ∨ t.calcCrc ≠ s.calcCrc → decode w = .ok .rxDecode ∧ 9 ≤ s.rxbuf.length) ∧
    t.inputs = s.inputs

/-! ## Status, flag and counter -/

/-- R210, R214: one status per command, STAT equal to STATUS, each raised exactly when its row says and with its DOUT. -/
def Obligations.StatusCodesAreRaisedAsStated : Prop :=
  ∀ (w : Word16) (s : State), ∃ t d, command w s = .next t ∧ t.response = some ⟨t.status, d⟩ ∧ IsStatusCode t.status ∧
    (t.status = 0x01 ↔ ∃ e, decode w = .error e) ∧
    (t.status = 0x02 ↔ (∃ i : Byte, decode w = .ok (.reqRead i) ∧ 8 ≤ i.toNat) ∨
      (∃ r : Byte, decode w = .ok (.rdReg r) ∧ 0x0D ≤ r.toNat ∧
        ¬ (0x10 ≤ r.toNat ∧ r.toNat ≤ 0x18 ∧ r.toNat - 0x10 < s.rxbuf.length))) ∧
    (t.status = 0x03 ↔ (∃ b, decode w = .ok (.rxPush b)) ∧ 9 ≤ s.rxbuf.length) ∧
    (t.status = 0x10 ↔ decode w = .ok .rxDecode ∧ s.rxbuf.length < 9) ∧
    (t.status = 0x11 ↔ decode w = .ok .rxDecode ∧ decodeFrame s.rxbuf = .error .crcMismatch) ∧
    (t.status = 0x01 ∨ t.status = 0x02 → d = 0x0000) ∧ (t.status = 0x03 → d = 0x0009) ∧
    (t.status = 0x10 → d = BitVec.ofNat 16 s.rxbuf.length) ∧ (t.status = 0x11 → d = crc16 (s.rxbuf.take 7))

/-- R212: ERR_ILLEGAL, ERR_RANGE and ERR_RX_OVERRUN change nothing but STATUS; the two decode errors discard the buffer and
clear VALID besides (and latch the two diagnostic CRCs as R38 says). -/
def Obligations.ErrorsChangeOnlyWhatTheyList : Prop :=
  ∀ (w : Word16) (s t : State), command w s = .next t →
    (t.status = 0x01 ∨ t.status = 0x02 ∨ t.status = 0x03 →
      t = { s with status := t.status, response := t.response }) ∧
    (t.status = 0x10 → t = { s with rxbuf := [], valid := 0, status := t.status, response := t.response }) ∧
    (t.status = 0x11 → t = { s with
      rxbuf := [], valid := 0, rxCrc := t.rxCrc, calcCrc := t.calcCrc, status := t.status, response := t.response } ∧
      t.rxCrc ≠ t.calcCrc)

/-- R40, R267: RD_REG 0x00 returns the previous command's status and then leaves OK. -/
def Obligations.StatusReadReturnsThePreviousStatus : Prop :=
  ∀ (w : Word16) (s : State), ∃ t u v, command w s = .next t ∧ command 0x3000 t = .next u ∧ command 0x3000 u = .next v ∧
    u = { t with status := 0x00, response := some ⟨0x00, t.status.setWidth 16⟩ } ∧
    v.response = some ⟨0x00, 0x0000⟩ ∧ t.response.map Response.stat = some t.status

/-- R35: VALID is written by RX_DECODE alone, as its outcome says; no command's behaviour depends on it, and RD_REG 0x03
alone shows it. -/
def Obligations.ValidIsWrittenByDecodeAndReadByNone : Prop :=
  ∀ (w : Word16) (s t : State) (v : BitVec 1), command w s = .next t →
    (decode w = .ok .rxDecode → (t.valid = 1 ↔ t.status = 0x00) ∧ (t.valid = 0 ↔ t.status = 0x10 ∨ t.status = 0x11)) ∧
    (decode w ≠ .ok .rxDecode → t.valid = s.valid) ∧
    (decode w = .ok (.rdReg 0x03) → t.response = some ⟨0x00, s.valid.setWidth 16⟩) ∧
    (∃ u, command w { s with valid := v } = .next u ∧
      { u with valid := t.valid, response := t.response } = t ∧
      (decode w ≠ .ok (.rdReg 0x03) → u.response = t.response) ∧
      (decode w = .ok .rxDecode → u.valid = t.valid))

/-- R39: over any steps without reset READ_COUNT grows by the successful decodes, modulo 2^32; from reset it is their
number. -/
def Obligations.ReadCountCountsSuccessfulDecodes : Prop :=
  (∀ (n : Nat) (s : State), HostInput.reset ∉ s.inputs →
    ∃ t, steps n s = .next t ∧ t.readCount = s.readCount + BitVec.ofNat 32 (successfulDecodes n s)) ∧
  (∀ (n : Nat) (ins : List HostInput), HostInput.reset ∉ ins →
    ∃ t, steps n { State.reset with inputs := ins } = .next t ∧
      t.readCount.toNat = successfulDecodes n { State.reset with inputs := ins } % 2 ^ 32)

/-- R266, R66: the two halves of READ_COUNT make one value when no successful decode stands between their reads. -/
def Obligations.ReadCountHalvesAreConsistent : Prop :=
  ∀ (ws : List Word16) (s : State), ∃ t u v, runWords [0x300B] s = .next t ∧ runWords ws t = .next u ∧
    runWords [0x300C] u = .next v ∧
    (successfulDecodes ws.length { t with inputs := presented ws } = 0 →
      ∃ low high : Word16, t.response = some ⟨0x00, low⟩ ∧ v.response = some ⟨0x00, high⟩ ∧
        high ++ low = s.readCount)

/-! ## The invariant -/

/-- The invariant holds right after reset. That STAT and DOUT stand in State as an Option is the model's choice (log 3). -/
def Obligations.InvariantHoldsAtReset : Prop := State.reset.Inv

/-- Every step keeps the invariant: the buffer has at most 9 bytes, STATUS is one of the six codes and equals STAT, while
VALID is 1 the decoded registers are those of a frame whose CRC matched, and until a command has run since reset every
register is at its reset value. The Option that says whether one has run is the model's choice (log 3). -/
def Obligations.EveryStepKeepsTheInvariant : Prop :=
  ∀ s t : State, s.Inv → step s = .next t → t.Inv

/-! ## The assembler and the host contract -/

/-- R88: ILLEGAL w assembles to w, and is rejected exactly when w is a command of R82; a command assembles to its word. -/
def Obligations.AssemblerRejectsDisguisedCommands : Prop :=
  (∀ w : Word16, assembleItem (.illegal w) = none ↔ ∃ i, decode w = .ok i) ∧
  (∀ w : Word16, (∃ e, decode w = .error e) → assembleItem (.illegal w) = some [w]) ∧
  (∀ is : List Instr, assemble (is.map .instr) = some (is.map encode))

/-- R221: a cycle whose write accepts all 8 bytes and whose read delivers an encoded response sends the request, waits,
reads, and emits the Reading with its counter. That the channel's answers are arguments is the model's choice (log 11). -/
def Obligations.GoodPollCycleEmitsTheReading : Prop :=
  ∀ (s : State) (a f n : Byte) (h t : Word16), ∃ u, pollCycle ⟨8, encodeResponse a f n h t⟩ s =
    .next ⟨u, [.write [0x01, 0x03, 0x00, 0x00, 0x00, 0x02, 0xC4, 0x0B], .sleep 100, .read 9,
      .emit ⟨h, t, s.readCount + 1⟩], .completed⟩ ∧
    u.hum = h ∧ u.temp = t ∧ u.valid = 1 ∧ u.readCount = s.readCount + 1 ∧ u.rxbuf = [] ∧ u.crc = s.crc

/-- R221, R223, S4, S5: a short write attempts no read and leaves the block as it was; a short or corrupt read emits
nothing and leaves READ_COUNT; FAIL_FAST ends the loop at the first failure and SKIP_AND_CONTINUE sleeps and goes on. That the channel's answers are
arguments is the model's choice (log 11). -/
def Obligations.FailedPollCyclesEmitNothing : Prop :=
  let request : HostAction := .write [0x01, 0x03, 0x00, 0x00, 0x00, 0x02, 0xC4, 0x0B]
  (∀ (s : State) (k : Nat) (bytes : List Byte), k ≠ 8 → pollCycle ⟨k, bytes⟩ s =
    .next ⟨{ s with status := 0x00, response := some ⟨0x00, 0x000B⟩ }, [request], .failed (.writeShort k)⟩) ∧
  (∀ (s : State) (bytes : List Byte) (e : FrameError), bytes.length ≤ 9 → decodeFrame bytes = .error e →
    ∃ u, pollCycle ⟨8, bytes⟩ s = .next ⟨u, [request, .sleep 100, .read 9],
      .failed (match e with | .readShort => .readShort | .crcMismatch => .crcMismatch)⟩ ∧
      u.readCount = s.readCount ∧ u.valid = 0 ∧ u.hum = s.hum ∧ u.temp = s.temp) ∧
  (∀ (cfg : HostConfig) (d : Draw) (rest : List Draw) (s : State) (c : CycleResult) (e : HostError),
    pollCycle d s = .next c → c.ending = .failed e →
    (cfg.fatalPolicy = .failFast → pollLoop cfg (d :: rest) s = .next ⟨c.state, c.actions, some e⟩) ∧
    (cfg.fatalPolicy = .skipAndContinue → ∀ r, pollLoop cfg rest c.state = .next r →
      pollLoop cfg (d :: rest) s =
        .next ⟨r.state, c.actions ++ .sleep cfg.pollIntervalMs :: r.actions, r.stoppedBy⟩))
end

