-- ==== Sys2Proof/Laws/Encoding.lean ====
section
/-! SUPPORT. The two fields of a command word, and what the decoder's must-be-zero check answers. -/

namespace Sys2Proof

theorem getLsbD_commandWord (op arg : Byte) (i : Nat) :
    (commandWord op arg).getLsbD i = if i < 8 then arg.getLsbD i else op.getLsbD (i - 8) :=
  BitVec.getLsbD_append

theorem opField_commandWord (op arg : Byte) : opField (commandWord op arg) = op := by
  apply BitVec.eq_of_getLsbD_eq
  intro i hi
  simp [opField, getLsbD_commandWord, hi]

theorem argField_commandWord (op arg : Byte) : argField (commandWord op arg) = arg := by
  apply BitVec.eq_of_getLsbD_eq
  intro i hi
  simp [argField, getLsbD_commandWord, hi]

theorem commandWord_fields (w : Word16) : commandWord (opField w) (argField w) = w := by
  apply BitVec.eq_of_getLsbD_eq
  intro i hi
  rw [getLsbD_commandWord]
  split <;> rename_i h
  · simp [argField, h]
  · simp [opField, show i - 8 < 8 by omega, show 8 + (i - 8) = i by omega]

/-- The check answers the command exactly when `ARG` is zero. -/
theorem noOperand_eq_ok {op arg : Byte} {i j : Instr} : noOperand op arg i = .ok j ↔ arg = 0 ∧ i = j := by
  unfold noOperand; split <;> simp_all

end Sys2Proof
end

