-- ==== Sys2Proof/Laws/State.lean ====
section
/-! SUPPORT. Beside State: what each named update does to each field, true by rfl, so that no proof unfolds a record update. -/

namespace Sys2Proof.Machine

@[simp] theorem respond_status (st : Status) (d : Word16) (s : State) : (respond st d s).status = statusCode st := rfl
@[simp] theorem respond_crc (st : Status) (d : Word16) (s : State) : (respond st d s).crc = s.crc := rfl
@[simp] theorem respond_rxbuf (st : Status) (d : Word16) (s : State) : (respond st d s).rxbuf = s.rxbuf := rfl
@[simp] theorem respond_valid (st : Status) (d : Word16) (s : State) : (respond st d s).valid = s.valid := rfl
@[simp] theorem respond_hum (st : Status) (d : Word16) (s : State) : (respond st d s).hum = s.hum := rfl
@[simp] theorem respond_temp (st : Status) (d : Word16) (s : State) : (respond st d s).temp = s.temp := rfl
@[simp] theorem respond_rAddr (st : Status) (d : Word16) (s : State) : (respond st d s).rAddr = s.rAddr := rfl
@[simp] theorem respond_rFunc (st : Status) (d : Word16) (s : State) : (respond st d s).rFunc = s.rFunc := rfl
@[simp] theorem respond_rBcnt (st : Status) (d : Word16) (s : State) : (respond st d s).rBcnt = s.rBcnt := rfl
@[simp] theorem respond_rxCrc (st : Status) (d : Word16) (s : State) : (respond st d s).rxCrc = s.rxCrc := rfl
@[simp] theorem respond_calcCrc (st : Status) (d : Word16) (s : State) : (respond st d s).calcCrc = s.calcCrc := rfl
@[simp] theorem respond_readCount (st : Status) (d : Word16) (s : State) : (respond st d s).readCount = s.readCount := rfl
@[simp] theorem respond_inputs (st : Status) (d : Word16) (s : State) : (respond st d s).inputs = s.inputs := rfl
@[simp] theorem respond_response (st : Status) (d : Word16) (s : State) : (respond st d s).response = some ⟨statusCode st, d⟩ := rfl

@[simp] theorem pushByte_status (b : Byte) (s : State) : (pushByte b s).status = s.status := rfl
@[simp] theorem pushByte_crc (b : Byte) (s : State) : (pushByte b s).crc = s.crc := rfl
@[simp] theorem pushByte_rxbuf (b : Byte) (s : State) : (pushByte b s).rxbuf = s.rxbuf ++ [b] := rfl
@[simp] theorem pushByte_valid (b : Byte) (s : State) : (pushByte b s).valid = s.valid := rfl
@[simp] theorem pushByte_hum (b : Byte) (s : State) : (pushByte b s).hum = s.hum := rfl
@[simp] theorem pushByte_temp (b : Byte) (s : State) : (pushByte b s).temp = s.temp := rfl
@[simp] theorem pushByte_rAddr (b : Byte) (s : State) : (pushByte b s).rAddr = s.rAddr := rfl
@[simp] theorem pushByte_rFunc (b : Byte) (s : State) : (pushByte b s).rFunc = s.rFunc := rfl
@[simp] theorem pushByte_rBcnt (b : Byte) (s : State) : (pushByte b s).rBcnt = s.rBcnt := rfl
@[simp] theorem pushByte_rxCrc (b : Byte) (s : State) : (pushByte b s).rxCrc = s.rxCrc := rfl
@[simp] theorem pushByte_calcCrc (b : Byte) (s : State) : (pushByte b s).calcCrc = s.calcCrc := rfl
@[simp] theorem pushByte_readCount (b : Byte) (s : State) : (pushByte b s).readCount = s.readCount := rfl
@[simp] theorem pushByte_inputs (b : Byte) (s : State) : (pushByte b s).inputs = s.inputs := rfl
@[simp] theorem pushByte_response (b : Byte) (s : State) : (pushByte b s).response = s.response := rfl

@[simp] theorem discardBuffer_status (s : State) : (discardBuffer s).status = s.status := rfl
@[simp] theorem discardBuffer_crc (s : State) : (discardBuffer s).crc = s.crc := rfl
@[simp] theorem discardBuffer_rxbuf (s : State) : (discardBuffer s).rxbuf = [] := rfl
@[simp] theorem discardBuffer_valid (s : State) : (discardBuffer s).valid = s.valid := rfl
@[simp] theorem discardBuffer_hum (s : State) : (discardBuffer s).hum = s.hum := rfl
@[simp] theorem discardBuffer_temp (s : State) : (discardBuffer s).temp = s.temp := rfl
@[simp] theorem discardBuffer_rAddr (s : State) : (discardBuffer s).rAddr = s.rAddr := rfl
@[simp] theorem discardBuffer_rFunc (s : State) : (discardBuffer s).rFunc = s.rFunc := rfl
@[simp] theorem discardBuffer_rBcnt (s : State) : (discardBuffer s).rBcnt = s.rBcnt := rfl
@[simp] theorem discardBuffer_rxCrc (s : State) : (discardBuffer s).rxCrc = s.rxCrc := rfl
@[simp] theorem discardBuffer_calcCrc (s : State) : (discardBuffer s).calcCrc = s.calcCrc := rfl
@[simp] theorem discardBuffer_readCount (s : State) : (discardBuffer s).readCount = s.readCount := rfl
@[simp] theorem discardBuffer_inputs (s : State) : (discardBuffer s).inputs = s.inputs := rfl
@[simp] theorem discardBuffer_response (s : State) : (discardBuffer s).response = s.response := rfl

@[simp] theorem setCrc_status (c : Word16) (s : State) : (setCrc c s).status = s.status := rfl
@[simp] theorem setCrc_crc (c : Word16) (s : State) : (setCrc c s).crc = c := rfl
@[simp] theorem setCrc_rxbuf (c : Word16) (s : State) : (setCrc c s).rxbuf = s.rxbuf := rfl
@[simp] theorem setCrc_valid (c : Word16) (s : State) : (setCrc c s).valid = s.valid := rfl
@[simp] theorem setCrc_hum (c : Word16) (s : State) : (setCrc c s).hum = s.hum := rfl
@[simp] theorem setCrc_temp (c : Word16) (s : State) : (setCrc c s).temp = s.temp := rfl
@[simp] theorem setCrc_rAddr (c : Word16) (s : State) : (setCrc c s).rAddr = s.rAddr := rfl
@[simp] theorem setCrc_rFunc (c : Word16) (s : State) : (setCrc c s).rFunc = s.rFunc := rfl
@[simp] theorem setCrc_rBcnt (c : Word16) (s : State) : (setCrc c s).rBcnt = s.rBcnt := rfl
@[simp] theorem setCrc_rxCrc (c : Word16) (s : State) : (setCrc c s).rxCrc = s.rxCrc := rfl
@[simp] theorem setCrc_calcCrc (c : Word16) (s : State) : (setCrc c s).calcCrc = s.calcCrc := rfl
@[simp] theorem setCrc_readCount (c : Word16) (s : State) : (setCrc c s).readCount = s.readCount := rfl
@[simp] theorem setCrc_inputs (c : Word16) (s : State) : (setCrc c s).inputs = s.inputs := rfl
@[simp] theorem setCrc_response (c : Word16) (s : State) : (setCrc c s).response = s.response := rfl

@[simp] theorem countRead_status (s : State) : (countRead s).status = s.status := rfl
@[simp] theorem countRead_crc (s : State) : (countRead s).crc = s.crc := rfl
@[simp] theorem countRead_rxbuf (s : State) : (countRead s).rxbuf = s.rxbuf := rfl
@[simp] theorem countRead_valid (s : State) : (countRead s).valid = s.valid := rfl
@[simp] theorem countRead_hum (s : State) : (countRead s).hum = s.hum := rfl
@[simp] theorem countRead_temp (s : State) : (countRead s).temp = s.temp := rfl
@[simp] theorem countRead_rAddr (s : State) : (countRead s).rAddr = s.rAddr := rfl
@[simp] theorem countRead_rFunc (s : State) : (countRead s).rFunc = s.rFunc := rfl
@[simp] theorem countRead_rBcnt (s : State) : (countRead s).rBcnt = s.rBcnt := rfl
@[simp] theorem countRead_rxCrc (s : State) : (countRead s).rxCrc = s.rxCrc := rfl
@[simp] theorem countRead_calcCrc (s : State) : (countRead s).calcCrc = s.calcCrc := rfl
@[simp] theorem countRead_readCount (s : State) : (countRead s).readCount = s.readCount + 1 := rfl
@[simp] theorem countRead_inputs (s : State) : (countRead s).inputs = s.inputs := rfl
@[simp] theorem countRead_response (s : State) : (countRead s).response = s.response := rfl

@[simp] theorem setValid_status (s : State) : (setValid s).status = s.status := rfl
@[simp] theorem setValid_crc (s : State) : (setValid s).crc = s.crc := rfl
@[simp] theorem setValid_rxbuf (s : State) : (setValid s).rxbuf = s.rxbuf := rfl
@[simp] theorem setValid_valid (s : State) : (setValid s).valid = 1 := rfl
@[simp] theorem setValid_hum (s : State) : (setValid s).hum = s.hum := rfl
@[simp] theorem setValid_temp (s : State) : (setValid s).temp = s.temp := rfl
@[simp] theorem setValid_rAddr (s : State) : (setValid s).rAddr = s.rAddr := rfl
@[simp] theorem setValid_rFunc (s : State) : (setValid s).rFunc = s.rFunc := rfl
@[simp] theorem setValid_rBcnt (s : State) : (setValid s).rBcnt = s.rBcnt := rfl
@[simp] theorem setValid_rxCrc (s : State) : (setValid s).rxCrc = s.rxCrc := rfl
@[simp] theorem setValid_calcCrc (s : State) : (setValid s).calcCrc = s.calcCrc := rfl
@[simp] theorem setValid_readCount (s : State) : (setValid s).readCount = s.readCount := rfl
@[simp] theorem setValid_inputs (s : State) : (setValid s).inputs = s.inputs := rfl
@[simp] theorem setValid_response (s : State) : (setValid s).response = s.response := rfl

@[simp] theorem clearValid_status (s : State) : (clearValid s).status = s.status := rfl
@[simp] theorem clearValid_crc (s : State) : (clearValid s).crc = s.crc := rfl
@[simp] theorem clearValid_rxbuf (s : State) : (clearValid s).rxbuf = s.rxbuf := rfl
@[simp] theorem clearValid_valid (s : State) : (clearValid s).valid = 0 := rfl
@[simp] theorem clearValid_hum (s : State) : (clearValid s).hum = s.hum := rfl
@[simp] theorem clearValid_temp (s : State) : (clearValid s).temp = s.temp := rfl
@[simp] theorem clearValid_rAddr (s : State) : (clearValid s).rAddr = s.rAddr := rfl
@[simp] theorem clearValid_rFunc (s : State) : (clearValid s).rFunc = s.rFunc := rfl
@[simp] theorem clearValid_rBcnt (s : State) : (clearValid s).rBcnt = s.rBcnt := rfl
@[simp] theorem clearValid_rxCrc (s : State) : (clearValid s).rxCrc = s.rxCrc := rfl
@[simp] theorem clearValid_calcCrc (s : State) : (clearValid s).calcCrc = s.calcCrc := rfl
@[simp] theorem clearValid_readCount (s : State) : (clearValid s).readCount = s.readCount := rfl
@[simp] theorem clearValid_inputs (s : State) : (clearValid s).inputs = s.inputs := rfl
@[simp] theorem clearValid_response (s : State) : (clearValid s).response = s.response := rfl

@[simp] theorem latchFields_status (f : FrameFields) (s : State) : (latchFields f s).status = s.status := rfl
@[simp] theorem latchFields_crc (f : FrameFields) (s : State) : (latchFields f s).crc = s.crc := rfl
@[simp] theorem latchFields_rxbuf (f : FrameFields) (s : State) : (latchFields f s).rxbuf = s.rxbuf := rfl
@[simp] theorem latchFields_valid (f : FrameFields) (s : State) : (latchFields f s).valid = s.valid := rfl
@[simp] theorem latchFields_hum (f : FrameFields) (s : State) : (latchFields f s).hum = f.hum := rfl
@[simp] theorem latchFields_temp (f : FrameFields) (s : State) : (latchFields f s).temp = f.temp := rfl
@[simp] theorem latchFields_rAddr (f : FrameFields) (s : State) : (latchFields f s).rAddr = f.addr := rfl
@[simp] theorem latchFields_rFunc (f : FrameFields) (s : State) : (latchFields f s).rFunc = f.func := rfl
@[simp] theorem latchFields_rBcnt (f : FrameFields) (s : State) : (latchFields f s).rBcnt = f.bcnt := rfl
@[simp] theorem latchFields_rxCrc (f : FrameFields) (s : State) : (latchFields f s).rxCrc = s.rxCrc := rfl
@[simp] theorem latchFields_calcCrc (f : FrameFields) (s : State) : (latchFields f s).calcCrc = s.calcCrc := rfl
@[simp] theorem latchFields_readCount (f : FrameFields) (s : State) : (latchFields f s).readCount = s.readCount := rfl
@[simp] theorem latchFields_inputs (f : FrameFields) (s : State) : (latchFields f s).inputs = s.inputs := rfl
@[simp] theorem latchFields_response (f : FrameFields) (s : State) : (latchFields f s).response = s.response := rfl

@[simp] theorem present_status (w : Word16) (s : State) : (present w s).status = s.status := rfl
@[simp] theorem present_crc (w : Word16) (s : State) : (present w s).crc = s.crc := rfl
@[simp] theorem present_rxbuf (w : Word16) (s : State) : (present w s).rxbuf = s.rxbuf := rfl
@[simp] theorem present_valid (w : Word16) (s : State) : (present w s).valid = s.valid := rfl
@[simp] theorem present_hum (w : Word16) (s : State) : (present w s).hum = s.hum := rfl
@[simp] theorem present_temp (w : Word16) (s : State) : (present w s).temp = s.temp := rfl
@[simp] theorem present_rAddr (w : Word16) (s : State) : (present w s).rAddr = s.rAddr := rfl
@[simp] theorem present_rFunc (w : Word16) (s : State) : (present w s).rFunc = s.rFunc := rfl
@[simp] theorem present_rBcnt (w : Word16) (s : State) : (present w s).rBcnt = s.rBcnt := rfl
@[simp] theorem present_rxCrc (w : Word16) (s : State) : (present w s).rxCrc = s.rxCrc := rfl
@[simp] theorem present_calcCrc (w : Word16) (s : State) : (present w s).calcCrc = s.calcCrc := rfl
@[simp] theorem present_readCount (w : Word16) (s : State) : (present w s).readCount = s.readCount := rfl
@[simp] theorem present_inputs (w : Word16) (s : State) : (present w s).inputs = .command w :: s.inputs := rfl
@[simp] theorem present_response (w : Word16) (s : State) : (present w s).response = s.response := rfl

@[simp] theorem assertReset_status (s : State) : (assertReset s).status = State.reset.status := rfl
@[simp] theorem assertReset_crc (s : State) : (assertReset s).crc = State.reset.crc := rfl
@[simp] theorem assertReset_rxbuf (s : State) : (assertReset s).rxbuf = State.reset.rxbuf := rfl
@[simp] theorem assertReset_valid (s : State) : (assertReset s).valid = State.reset.valid := rfl
@[simp] theorem assertReset_hum (s : State) : (assertReset s).hum = State.reset.hum := rfl
@[simp] theorem assertReset_temp (s : State) : (assertReset s).temp = State.reset.temp := rfl
@[simp] theorem assertReset_rAddr (s : State) : (assertReset s).rAddr = State.reset.rAddr := rfl
@[simp] theorem assertReset_rFunc (s : State) : (assertReset s).rFunc = State.reset.rFunc := rfl
@[simp] theorem assertReset_rBcnt (s : State) : (assertReset s).rBcnt = State.reset.rBcnt := rfl
@[simp] theorem assertReset_rxCrc (s : State) : (assertReset s).rxCrc = State.reset.rxCrc := rfl
@[simp] theorem assertReset_calcCrc (s : State) : (assertReset s).calcCrc = State.reset.calcCrc := rfl
@[simp] theorem assertReset_readCount (s : State) : (assertReset s).readCount = State.reset.readCount := rfl
@[simp] theorem assertReset_inputs (s : State) : (assertReset s).inputs = s.inputs := rfl
@[simp] theorem assertReset_response (s : State) : (assertReset s).response = State.reset.response := rfl

end Sys2Proof.Machine
end

