-- ==== Sys2Proof/Laws/Ops.lean ====
section
/-! SUPPORT. One lemma per shared operation that says what it can do: the buffer's canonical form is kept, a frame is there
exactly when 9 bytes are, the diagnostic latch touches two registers only, byte order round trips, the ROM's range. -/

namespace Sys2Proof.Machine

theorem reset_rxbuf_wf : RxBuf.wf State.reset.rxbuf := by decide

theorem discardBuffer_wf (s : State) : RxBuf.wf (discardBuffer s).rxbuf := by simp [RxBuf.wf]

/-- A push into a buffer that is not full keeps the form. -/
theorem pushByte_wf (b : Byte) {s : State} (h : s.rxcnt < frameLength) : RxBuf.wf (pushByte b s).rxbuf := by
  simp only [RxBuf.wf, pushByte_rxbuf, List.length_append, List.length_singleton]
  exact h

/-- A push leaves every filled slot as it was, and fills the next one. -/
theorem rxSlot_pushByte (b : Byte) (s : State) (i : Nat) :
    rxSlot (pushByte b s) i = if i = s.rxcnt then some b else rxSlot s i := by
  simp only [rxSlot, pushByte_rxbuf, State.rxcnt, List.getElem?_append]
  rcases Nat.lt_trichotomy i s.rxbuf.length with h | h | h
  · simp [h, Nat.ne_of_lt h]
  · simp [h]
  · simp [Nat.not_lt_of_gt h, Nat.ne_of_gt h]
    omega

/-- A slot holds a value exactly when its index is below RXCNT (R34). -/
theorem rxSlot_isSome (s : State) (i : Nat) : (rxSlot s i).isSome ↔ i < s.rxcnt := by
  simp [rxSlot, State.rxcnt]

/-- There is no frame exactly when there are fewer than 9 bytes. -/
theorem frameOfBytes_eq_none (bytes : List Byte) : frameOfBytes bytes = none ↔ bytes.length < 9 := by
  unfold frameOfBytes
  split
  · simp
  · rename_i h
    simp only [true_iff]
    by_contra hn
    match bytes, hn with
    | f0 :: f1 :: f2 :: f3 :: f4 :: f5 :: f6 :: f7 :: f8 :: r, _ => exact h f0 f1 f2 f3 f4 f5 f6 f7 f8 r rfl
    | [], hn | [_], hn | [_, _], hn | [_, _, _], hn | [_, _, _, _], hn | [_, _, _, _, _], hn | [_, _, _, _, _, _], hn
    | [_, _, _, _, _, _, _], hn | [_, _, _, _, _, _, _, _], hn => simp at hn

/-- A frame is the first 9 bytes, in order. -/
theorem frameBytes_of_frameOfBytes {bytes : List Byte} {F : RawFrame} (h : frameOfBytes bytes = some F) :
    frameBytes F = bytes.take 9 := by
  unfold frameOfBytes at h
  split at h
  · cases h; simp [frameBytes, payload]
  · simp at h

/-- The bytes of a frame are that frame. -/
theorem frameOfBytes_frameBytes (F : RawFrame) : frameOfBytes (frameBytes F) = some F := rfl

/-- Only RX_CRC and CALC_CRC are latched, and only where a frame is there (R38). -/
theorem latchCrcs_eq (bytes : List Byte) (s : State) :
    latchCrcs bytes s = { s with rxCrc := (latchCrcs bytes s).rxCrc, calcCrc := (latchCrcs bytes s).calcCrc } := by
  unfold latchCrcs; split <;> rfl

theorem latchCrcs_of_none {bytes : List Byte} (h : frameOfBytes bytes = none) (s : State) : latchCrcs bytes s = s := by
  simp [latchCrcs, h]

theorem latchCrcs_of_some {bytes : List Byte} {F : RawFrame} (h : frameOfBytes bytes = some F) (s : State) :
    latchCrcs bytes s = { s with rxCrc := transmittedCrc F, calcCrc := computedCrc F } := by
  simp [latchCrcs, h]

/-- The three answers of the pure decode function. -/
theorem decodeFrame_cases (bytes : List Byte) :
    (frameOfBytes bytes = none ∧ decodeFrame bytes = .error .readShort) ∨
    (∃ F, frameOfBytes bytes = some F ∧ validate F = false ∧ decodeFrame bytes = .error .crcMismatch) ∨
    (∃ F, frameOfBytes bytes = some F ∧ validate F = true ∧ decodeFrame bytes = .ok (frameFields F)) := by
  unfold decodeFrame
  cases h : frameOfBytes bytes with
  | none => simp
  | some F => cases hv : validate F <;> simp [hv]

theorem validate_iff (F : RawFrame) : validate F = true ↔ computedCrc F = transmittedCrc F := by
  simp [validate]

theorem getLsbD_be16 (hi lo : Byte) (i : Nat) :
    (be16 hi lo).getLsbD i = if i < 8 then lo.getLsbD i else hi.getLsbD (i - 8) :=
  BitVec.getLsbD_append

theorem highByte_be16 (hi lo : Byte) : highByte (be16 hi lo) = hi := by
  apply BitVec.eq_of_getLsbD_eq
  intro i h
  simp [highByte, getLsbD_be16, h]

theorem lowByte_be16 (hi lo : Byte) : lowByte (be16 hi lo) = lo := by
  apply BitVec.eq_of_getLsbD_eq
  intro i h
  simp [lowByte, getLsbD_be16, h]

theorem be16_bytes (v : Word16) : be16 (highByte v) (lowByte v) = v := by
  apply BitVec.eq_of_getLsbD_eq
  intro i hi
  rw [getLsbD_be16]
  split <;> rename_i h
  · simp [lowByte, h]
  · simp [highByte, show i - 8 < 8 by omega, show 8 + (i - 8) = i by omega]

/-- The little-endian reading is the big-endian one of the bytes in the other order (R151). -/
theorem le16_eq_be16 (lo hi : Byte) : le16 lo hi = be16 hi lo := rfl

/-- The ROM has a byte exactly below index 8 (R67, R132). -/
theorem romByte_isSome (i : Word16) : (romByte i).isSome ↔ i.toNat < 8 := by
  simp [romByte, reqRom]

/-- The inputs are taken oldest first, and taking one changes nothing else. -/
theorem nextInput_eq_some {s t : State} {i : HostInput} :
    nextInput s = some (i, t) ↔ s.inputs = i :: t.inputs ∧ t = { s with inputs := t.inputs } := by
  unfold nextInput
  split
  · rename_i h; simp [h]
  · rename_i j rest h
    simp only [h, Option.some.injEq, Prod.mk.injEq, List.cons.injEq]
    constructor
    · rintro ⟨rfl, rfl⟩; simp
    · rintro ⟨⟨rfl, h1⟩, h2⟩; exact ⟨rfl, by rw [h2, h1]⟩

theorem nextInput_eq_none {s : State} : nextInput s = none ↔ s.inputs = [] := by
  unfold nextInput; split <;> simp_all

/-- What RX_DECODE can do (R163): one of three next states. -/
theorem execRxDecode_cases (s : State) :
    (frameOfBytes s.rxbuf = none ∧
      execRxDecode s = .next (rejectFrame .errReadShort (countWord s.rxcnt) s)) ∨
    (∃ F, frameOfBytes s.rxbuf = some F ∧ validate F = false ∧
      execRxDecode s = .next (rejectFrame .errCrcMismatch (computedCrc F) (latchCrcs s.rxbuf s))) ∨
    (∃ F, frameOfBytes s.rxbuf = some F ∧ validate F = true ∧
      execRxDecode s = .next (acceptFrame (frameFields F) (computedCrc F) (latchCrcs s.rxbuf s))) := by
  rcases decodeFrame_cases s.rxbuf with ⟨h, hd⟩ | ⟨F, h, hv, hd⟩ | ⟨F, h, hv, hd⟩
  · exact .inl ⟨h, by simp [execRxDecode, hd, latchCrcs_of_none h]⟩
  · exact .inr (.inl ⟨F, h, hv, by simp [execRxDecode, hd, latchCrcs_of_some h]⟩)
  · exact .inr (.inr ⟨F, h, hv, by simp [execRxDecode, hd, latchCrcs_of_some h]⟩)

end Sys2Proof.Machine
end

