-- ==== Sys2Proof/Laws/PerInstr.lean ====
section
/-! SUPPORT. Statements for all commands, one lemma per constructor. `TableRowOf`: the word of a command selects the row of
R82 the command stands in, and no other row. -/

namespace Sys2Proof.Laws.TableRowOf

/-- The encoding of `i` selects its own row of the opcode table and only that one (R82). -/
def Statement (i : Instr) : Prop :=
  opcodeTable.filter (fun row => row.selectedBy (encode i)) = [i.row]

/-- For the five commands without operand the word is a constant. -/
theorem nop : Statement .nop := by unfold Statement; decide
theorem crcInit : Statement .crcInit := by unfold Statement; decide
theorem crcRead : Statement .crcRead := by unfold Statement; decide
theorem rxClear : Statement .rxClear := by unfold Statement; decide
theorem rxDecode : Statement .rxDecode := by unfold Statement; decide

/-- For the four operand forms every one of the 256 operands is looked at. -/
theorem crcByte (b : Byte) : Statement (.crcByte b) := by unfold Statement; revert b; decide +kernel
theorem reqRead (i : Byte) : Statement (.reqRead i) := by unfold Statement; revert i; decide +kernel
theorem rxPush (b : Byte) : Statement (.rxPush b) := by unfold Statement; revert b; decide +kernel
theorem rdReg (r : Byte) : Statement (.rdReg r) := by unfold Statement; revert r; decide +kernel

end Sys2Proof.Laws.TableRowOf
end

