-- ==== Sys2Proof/Laws/Step.lean ====
section
/-! SUPPORT. What a command and a step can do, said once: every case of `command` and of `step`, and that no command looks
at or changes what the host still presents. -/

namespace Sys2Proof.Machine

/-- A word is a command of the table, run by `exec`, or it is illegal and answered so. -/
theorem command_cases {w : Word16} {s t : State} (h : command w s = .next t) :
    (∃ i, decode w = .ok i ∧ exec i s = .next t) ∨
    (∃ e, decode w = .error e ∧ t = respond .errIllegal 0x0000 s) := by
  unfold command at h
  cases hd : decode w with
  | ok i => exact .inl ⟨i, rfl, by simpa [hd] using h⟩
  | error e => exact .inr ⟨e, rfl, by simpa [hd, execIllegal] using h.symm⟩

/-- A step is idle, asserts reset, or runs the command word at the front of the inputs. -/
theorem step_cases {s t : State} (h : step s = .next t) :
    (s.inputs = [] ∧ t = s) ∨
    (∃ rest, s.inputs = .reset :: rest ∧ t = { State.reset with inputs := rest }) ∨
    (∃ w rest, s.inputs = .command w :: rest ∧ command w { s with inputs := rest } = .next t) := by
  unfold step nextInput at h
  cases hi : s.inputs with
  | nil => simp only [hi] at h; cases h; exact .inl ⟨rfl, rfl⟩
  | cons i rest =>
    simp only [hi] at h
    cases i with
    | reset => cases h; exact .inr (.inl ⟨rest, rfl, rfl⟩)
    | command w => exact .inr (.inr ⟨w, rest, rfl, h⟩)

/-- No meaning changes what the host still presents. -/
theorem exec_inputs {i : Instr} {s t : State} (h : exec i s = .next t) : t.inputs = s.inputs := by
  cases i with
  | rxDecode =>
    have hl : (latchCrcs s.rxbuf s).inputs = s.inputs := by rw [latchCrcs_eq]
    have h' : execRxDecode s = .next t := h
    rcases execRxDecode_cases s with ⟨_, he⟩ | ⟨F, _, _, he⟩ | ⟨F, _, _, he⟩ <;> rw [he] at h' <;> cases h' <;>
      simp [rejectFrame, acceptFrame, hl]
  | reqRead k => simp only [exec, execReqRead] at h; split at h <;> cases h <;> rfl
  | rxPush b => simp only [exec, execRxPush] at h; split at h <;> cases h <;> rfl
  | rdReg r => simp only [exec, execRdReg] at h; split at h <;> cases h <;> rfl
  | nop => cases h; rfl
  | crcInit => cases h; rfl
  | crcByte b => cases h; rfl
  | crcRead => cases h; rfl
  | rxClear => cases h; rfl

theorem command_inputs {w : Word16} {s t : State} (h : command w s = .next t) : t.inputs = s.inputs := by
  rcases command_cases h with ⟨i, _, he⟩ | ⟨e, _, rfl⟩
  · exact exec_inputs he
  · rfl

/-- No command looks at what the host still presents. -/
theorem exec_withInputs {i : Instr} {s t : State} (x : List HostInput) (h : exec i s = .next t) :
    exec i { s with inputs := x } = .next { t with inputs := x } := by
  cases i with
  | rxDecode =>
    have h' : execRxDecode s = .next t := h
    rcases execRxDecode_cases s with ⟨hn, he⟩ | ⟨F, hn, hv, he⟩ | ⟨F, hn, hv, he⟩ <;> rw [he] at h' <;> cases h'
    · simp only [exec, execRxDecode, latchCrcs, decodeFrame, hn]; rfl
    · rw [latchCrcs_of_some hn]; simp only [exec, execRxDecode, latchCrcs, decodeFrame, hn, hv]; rfl
    · rw [latchCrcs_of_some hn]; simp only [exec, execRxDecode, latchCrcs, decodeFrame, hn, hv]; rfl
  | reqRead k => simp only [exec, execReqRead] at *; split at h <;> cases h <;> rfl
  | rxPush b =>
    by_cases hb : s.rxbuf.length < 9
    · simp only [exec, execRxPush, if_pos hb] at *; cases h; rfl
    · simp only [exec, execRxPush, if_neg hb] at *; cases h; rfl
  | rdReg r =>
    simp only [exec, execRdReg] at *
    rw [show readReg { s with inputs := x } (indexOperand r) = readReg s (indexOperand r) from rfl]
    split at h <;> cases h <;> rfl
  | nop => cases h; rfl
  | crcInit => cases h; rfl
  | crcByte b => cases h; rfl
  | crcRead => cases h; rfl
  | rxClear => cases h; rfl

theorem command_withInputs {w : Word16} {s t : State} (x : List HostInput) (h : command w s = .next t) :
    command w { s with inputs := x } = .next { t with inputs := x } := by
  unfold command at *
  split at h
  · exact exec_withInputs x h
  · cases h; rfl

/-- One more step of any machine, by what its first step answers. -/
theorem core_run_succ (M : Host.Core) (n : Nat) (s : M.State) :
    (∀ t, M.step s = .next t → M.run (n + 1) s = M.run n t) ∧
    (∀ r, M.step s = .fault r → M.run (n + 1) s = .fault r) ∧
    (∀ r, M.step s = .refused r → M.run (n + 1) s = .refused r) := by
  refine ⟨fun t h => ?_, fun r h => ?_, fun r h => ?_⟩ <;> rw [Host.Core.run.eq_2, h]

/-- The host's run of the machine is `steps`. -/
theorem core_run_eq_steps (n : Nat) (s : State) : Host.Core.run core n s = steps n s := by
  induction n generalizing s with
  | zero => rfl
  | succ n ih =>
    obtain ⟨hn, hf, hr⟩ := core_run_succ core n s
    rw [steps]
    cases h : step s with
    | next t => exact (hn t h).trans (ih t)
    | fault r => exact hf r h
    | refused r => exact hr r h

/-- A program runs its first word, then the rest. -/
theorem runWords_cons {w : Word16} {s t : State} (ws : List Word16) (h : command w s = .next t) :
    runWords (w :: ws) s = runWords ws t := by
  have hs : step { s with inputs := presented (w :: ws) } = .next { t with inputs := presented ws } := by
    have hc := command_withInputs (presented ws) h
    exact hc
  show onNext (step { s with inputs := presented (w :: ws) }) (steps ws.length) = _
  rw [hs]; rfl

end Sys2Proof.Machine
end

