-- ==== Sys2Proof/Tests/Slice0.lean ====
section
/-! SUPPORT. Small tests against the spec's own vectors (95_test_vectors.md) and words written out from the encodings of
R82, the smoke tests of well-formedness, and for each obligation with hypotheses a witness that meets them together. -/

open Sys2Proof Sys2Proof.Machine

namespace Sys2Proof.Tests

/-! ## Helpers -/

/-- What a command leaves, where it answers a next state. -/
def after (w : Word16) (s : State) : Option State :=
  match command w s with
  | .next t => some t
  | .fault _ => none
  | .refused _ => none

/-- (STAT, DOUT) of a command. -/
def answer (w : Word16) (s : State) : Option Response := (after w s).bind State.response

/-- The frame of S3. -/
def goodFrame : List Byte := [0x01, 0x03, 0x04, 0x01, 0xF4, 0x00, 0xC8, 0xBB, 0xAB]

/-- The reset state with a buffer. -/
def holding (bytes : List Byte) : State := { State.reset with rxbuf := bytes }

/-! ## Well-formedness: a term that each check refuses -/

/-- R86 (a): the reserved CRC5 slot selects no row. -/
theorem test_reserved_slot_is_no_command : isCommandWord 0x0401 = false := by decide
/-- R86 (b): RX_DECODE with ARG = 1 selects no row. -/
theorem test_nonzero_arg_is_no_command : isCommandWord 0x2201 = false := by decide
theorem test_command_word_accepted : isCommandWord 0x21FF = true := by decide
/-- R88: ILLEGAL of a command's word is refused, of an illegal word accepted. -/
theorem test_disguised_command_ill_formed : asmWellFormed (.illegal 0x2200) = false := by decide
theorem test_illegal_word_well_formed : asmWellFormed (.illegal 0x2201) = true := by decide
theorem test_instr_well_formed : Instr.wellFormed (.reqRead 0xFF) = true := by decide

/-! ## Decoding: words written out bit by bit from R82 and the `encoding` strings of the opcode table -/

theorem test_decode_nop : decode 0b0000000000000000#16 = .ok .nop := by decide
theorem test_decode_crcInit : decode 0b0000000100000000#16 = .ok .crcInit := by decide
theorem test_decode_crcByte : decode 0b0000001010100101#16 = .ok (.crcByte 0b10100101#8) := by decide
theorem test_decode_crcRead : decode 0b0000001100000000#16 = .ok .crcRead := by decide
theorem test_decode_reqRead : decode 0b0001000000000111#16 = .ok (.reqRead 7) := by decide
theorem test_decode_rxClear : decode 0b0010000000000000#16 = .ok .rxClear := by decide
theorem test_decode_rxPush : decode 0b0010000111110100#16 = .ok (.rxPush 0xF4) := by decide
theorem test_decode_rxDecode : decode 0b0010001000000000#16 = .ok .rxDecode := by decide
theorem test_decode_rdReg : decode 0b0011000000001100#16 = .ok (.rdReg 0x0C) := by decide
theorem test_decodeTableWord_push : decodeTableWord 16 0x2155 = some (.rxPush 0x55) := by decide
theorem test_decodeTableWord_illegal : decodeTableWord 16 0x00FF = none := by decide

/-! ## Commands (V6, V7, V10, V11, V12, V13) -/

theorem test_nop_answers : answer 0x0000 State.reset = some ⟨0x00, 0x0000⟩ := by decide
theorem test_nop_nonzero_arg : answer 0x00FF State.reset = some ⟨0x01, 0x0000⟩ := by decide
theorem test_crcInit_from_2140 : (after 0x0100 { State.reset with crc := 0x2140 }).map State.crc = some 0xFFFF := by decide
theorem test_crcInit_illegal_arg : (after 0x0101 { State.reset with crc := 0x2140 }).map State.crc = some 0x2140 := by decide
theorem test_crcByte_from_reset : answer 0x0201 State.reset = some ⟨0x00, 0x807E⟩ := by decide +kernel
theorem test_crcByte_zero_stays : answer 0x0200 { State.reset with crc := 0 } = some ⟨0x00, 0x0000⟩ := by decide +kernel
theorem test_crcRead_from_reset : answer 0x0300 State.reset = some ⟨0x00, 0xFFFF⟩ := by decide
theorem test_crcRead_illegal_arg : answer 0x0305 State.reset = some ⟨0x01, 0x0000⟩ := by decide
theorem test_reqRead_last : answer 0x1007 State.reset = some ⟨0x00, 0x000B⟩ := by decide
theorem test_reqRead_first_out : answer 0x1008 State.reset = some ⟨0x02, 0x0000⟩ := by decide
theorem test_rxClear : (after 0x2000 (holding [1, 3, 4, 1, 0xF4])).map State.rxbuf = some [] := by decide
theorem test_rxClear_illegal_arg : (after 0x2001 (holding [1, 3])).map State.rxbuf = some [1, 3] := by decide
theorem test_rxPush_ninth : answer 0x21AB (holding [1, 3, 4, 1, 0xF4, 0, 0xC8, 0xBB]) = some ⟨0x00, 0x0009⟩ := by decide
theorem test_rxPush_tenth : answer 0x2155 (holding goodFrame) = some ⟨0x03, 0x0009⟩ := by decide
/-- V8: the second row, a negative humidity. -/
theorem test_rxDecode_negative : (after 0x2200 (holding [1, 3, 4, 0xFF, 0x9C, 0, 0, 0x0A, 0x09])).map
    (fun t => (t.response, t.hum, t.temp, t.valid, t.readCount)) =
    some (some ⟨0x00, 0x090A⟩, 0xFF9C, 0x0000, 1, 1) := by decide +kernel
/-- V10: the CRC bytes swapped. -/
theorem test_rxDecode_swapped : (after 0x2200 (holding [1, 3, 4, 1, 0xF4, 0, 0xC8, 0xAB, 0xBB])).map
    (fun t => (t.response, t.rxCrc, t.calcCrc, t.valid)) = some (some ⟨0x11, 0xABBB⟩, 0xBBAB, 0xABBB, 0) := by
  decide +kernel
/-- V13: `RXBUF = [01 03]`. -/
theorem test_rdReg_filled_slot : answer 0x3011 (holding [1, 3]) = some ⟨0x00, 0x0003⟩ := by decide
theorem test_rdReg_unfilled_slot : answer 0x3012 (holding [1, 3]) = some ⟨0x02, 0x0000⟩ := by decide
/-- V12: the wrap. -/
theorem test_readCount_wraps : (after 0x2200 { holding goodFrame with readCount := 0xFFFFFFFF }).map State.readCount =
    some 0 := by decide +kernel
/-- R193: the example word 0x0401. -/
theorem test_illegal_word : answer 0x0401 State.reset = some ⟨0x01, 0x0000⟩ := by decide
theorem test_withFetchWord_runs : ∃ t, step (State.reset.withFetchWord 16 0x1006) = .next t ∧
    t.response = some ⟨0x00, 0x00C4⟩ := ⟨_, rfl, rfl⟩

/-! ## Pure functions (V3, V5, V8) -/

theorem test_crc16_check_value : crc16 [0x31, 0x32, 0x33, 0x34, 0x35, 0x36, 0x37, 0x38, 0x39] = 0x4B37 := by decide +kernel
theorem test_crc16_response : crc16 [0x01, 0x03, 0x04, 0x01, 0xF4, 0x00, 0xC8] = 0xABBB := by decide +kernel
theorem test_encodeResponse : encodeResponse 1 3 4 0x0384 0xFF38 = [1, 3, 4, 0x03, 0x84, 0xFF, 0x38, 0xFA, 0x7C] := by
  decide +kernel
theorem test_sint16_negative : sint16 0xFF9C = -100 := by decide

/-! ## The assembler (R87, R88, P1, P4) -/

theorem test_assemble_hex : assembleLine ['R', 'X', '_', 'P', 'U', 'S', 'H', ' ', '0', 'x', 'F', '4', ' ', ';', ' ', 'x'] =
    some [0x21F4] := by decide
theorem test_assemble_decimal : assembleLine ['R', 'E', 'Q', '_', 'R', 'E', 'A', 'D', ' ', '6'] = some [0x1006] := by decide
theorem test_assemble_out_of_range : assembleLine ['R', 'D', '_', 'R', 'E', 'G', ' ', '2', '5', '6'] = none := by decide
theorem test_assemble_illegal : assembleLine ['I', 'L', 'L', 'E', 'G', 'A', 'L', ' ', '0', 'x', '0', '4', '0', '1'] =
    some [0x0401] := by decide
theorem test_assemble_label : assembleLine ['l', 'o', 'o', 'p', ':'] = some [] := by decide
theorem test_listing : listingOf 0x0203 = ['0', '2', '0', '3'] := by decide

/-! ## Witnesses: each obligation with hypotheses, met by a concrete state and operands -/

theorem witness_DecodesExactlyTheTablesWords : decode 0x30FF = .ok (.rdReg 0xFF) := by decide
theorem witness_DecodeFollowsThePseudocode : decode 0x0400 = .error (.undefinedOpcode 0x04 0x00) := by decide
/-- The edges of the four ranges of R86 (a), one illegal ARG, and the defined neighbours. -/
theorem witness_IllegalWords_edges :
    ([0x0400, 0x0FFF, 0x1100, 0x1FFF, 0x2300, 0x2FFF, 0x3100, 0xFFFF, 0x0001, 0x2201] : List Word16).all
      (fun w => !isCommandWord w) = true := by decide
theorem witness_LegalWords_edges :
    ([0x0000, 0x0300, 0x1000, 0x10FF, 0x2000, 0x22 * 256, 0x3000, 0x30FF] : List Word16).all isCommandWord = true := by decide
theorem witness_StepRunsTheDecodedCommand : decode 0x0300 = .ok .crcRead := by decide
theorem witness_ResetLeaves_reqRead : ∃ t, exec (.reqRead 8) State.reset = .next t := ⟨_, rfl⟩
/-- Each disjunct of the READ_COUNT clause: idle, a successful decode, reset asserted. -/
theorem witness_ResetInput_idle : step State.reset = .next State.reset := rfl
theorem witness_ResetInput_decode : decodesNow { holding goodFrame with inputs := [.command 0x2200] } = true := by
  decide +kernel
theorem witness_ResetInput_reset : (step { State.reset with readCount := 5, inputs := [.reset] } =
    .next State.reset) := rfl
theorem witness_AccumulatorLaw : ∀ w ∈ ([0x0201, 0x2203, 0x0000] : List Word16), decode w ≠ .ok .crcInit := by
  simp only [List.forall_mem_cons]
  exact ⟨by decide, by decide, by decide, by simp⟩
theorem witness_CrcAfterResetNeedsNoInit : ∀ w ∈ ([0x0201, 0x0300, 0x0101] : List Word16), decode w ≠ .ok .crcInit := by
  simp only [List.forall_mem_cons]
  exact ⟨by decide, by decide, by decide, by simp⟩
theorem witness_CrcLinearity : ([0x01, 0x02] : List Byte).length = ([0xF0, 0x80] : List Byte).length := rfl
/-- A valid frame, one at a single bit from it (C8 becomes C9), and one at a single byte but two bits. -/
theorem witness_SingleErrors_bit :
    let F : RawFrame := ⟨0x01, 0x03, 0x04, 0x01, 0xF4, 0x00, 0xC8, 0xBB, 0xAB⟩
    let G : RawFrame := ⟨0x01, 0x03, 0x04, 0x01, 0xF4, 0x00, 0xC9, 0xBB, 0xAB⟩
    validate F = true ∧ bitDifferences F G = 1 ∧ byteDifferences F G = 1 := by decide +kernel
theorem witness_SingleErrors_byte :
    let F : RawFrame := ⟨0x01, 0x03, 0x04, 0x01, 0xF4, 0x00, 0xC8, 0xBB, 0xAB⟩
    let G : RawFrame := ⟨0x01, 0x03, 0x04, 0x01, 0xF4, 0x00, 0xC8, 0xBB, 0xA8⟩
    validate F = true ∧ bitDifferences F G = 2 ∧ byteDifferences F G = 1 := by decide +kernel
theorem witness_CrcDependsOnly : State.reset.crc = { holding goodFrame with status := 0x11, valid := 1 }.crc ∧
    decode 0x0200 = .ok (.crcByte 0x00) := by decide
theorem witness_RxPush_room : (holding [1, 3, 4, 1, 0xF4, 0, 0xC8, 0xBB]).rxbuf.length < 9 := by decide
theorem witness_RxPush_full : 9 ≤ (holding goodFrame).rxbuf.length := by decide
theorem witness_RxPush_slots : ∃ t, exec (.rxPush 0x55) (holding [1]) = .next t ∧ t.rxbuf[0]? = some 1 := ⟨_, rfl, rfl⟩
theorem witness_RxDecode_short : (holding [1, 3, 4, 1, 0xF4, 0, 0xC8, 0xBB]).rxbuf.length < 9 := by decide
theorem witness_RxDecode_equal : crc16 [0x01, 0x03, 0x04, 0x01, 0xF4, 0x00, 0xC8] = (0xAB#8 ++ 0xBB#8 : Word16) := by
  decide +kernel
/-- V10: nine zero bytes fail. -/
theorem witness_RxDecode_different : crc16 [0, 0, 0, 0, 0, 0, 0] ≠ (0x00#8 ++ 0x00#8 : Word16) := by decide +kernel
theorem witness_DecodeChecks_short : ∃ t, exec .rxDecode State.reset = .next t ∧ State.reset.rxbuf.length < 9 :=
  ⟨_, rfl, by decide⟩
theorem witness_DecodeChecks_mismatch : (after 0x2200 (holding [0, 0, 0, 0, 0, 0, 0, 0, 0])).map State.status = some 0x11 := by
  decide +kernel
theorem witness_PureDecode_short : ([] : List Byte).length < 9 ∧ goodFrame.dropLast.length < 9 := by decide
theorem witness_DecodeAgrees : ∀ w ∈ ([0x2101, 0x0000, 0x21FF, 0x0401] : List Word16),
    decode w ≠ .ok .rxClear ∧ decode w ≠ .ok .rxDecode := by
  simp only [List.forall_mem_cons]
  exact ⟨by decide, by decide, by decide, by decide, by simp⟩
theorem witness_RxFrame_short : goodFrame.dropLast.length < 9 := by decide
/-- A command that changes each register, so that no clause of the frame is empty. -/
theorem witness_Writers_crc : (after 0x0201 State.reset).map State.crc ≠ some State.reset.crc := by decide +kernel
theorem witness_Writers_buffer : (after 0x2101 State.reset).map State.rxbuf ≠ some State.reset.rxbuf := by decide
theorem witness_Writers_decoded : (after 0x2200 (holding goodFrame)).map (fun t => (t.valid, t.hum, t.rxCrc, t.status)) =
    some (1, 0x01F4, 0xABBB, 0x00) := by decide +kernel
theorem witness_Status_range_edges : (answer 0x300C State.reset).map Response.stat = some 0x00 ∧
    (answer 0x300D State.reset).map Response.stat = some 0x02 ∧
    (answer 0x3018 (holding goodFrame)).map Response.stat = some 0x00 ∧
    (answer 0x3019 (holding goodFrame)).map Response.stat = some 0x02 := by decide
theorem witness_Errors_range : ∃ t, command 0x1008 State.reset = .next t ∧ t.status = 0x02 := ⟨_, rfl, rfl⟩
theorem witness_Errors_short : ∃ t, command 0x2200 State.reset = .next t ∧ t.status = 0x10 := ⟨_, rfl, rfl⟩
theorem witness_Errors_mismatch : (after 0x2200 (holding [1, 3, 4, 1, 0xF4, 0, 0xC8, 0xBA, 0xAB])).map State.status =
    some 0x11 := by decide +kernel
theorem witness_Valid_decode : ∃ t, command 0x2200 { State.reset with valid := 1 } = .next t ∧ t.valid = 0 := ⟨_, rfl, rfl⟩
theorem witness_Valid_flags : ∃ t, command 0x3003 { State.reset with valid := 1 } = .next t ∧
    t.response = some ⟨0x00, 0x0001⟩ := ⟨_, rfl, rfl⟩
theorem witness_ReadCount : HostInput.reset ∉ { holding goodFrame with inputs := [.command 0x2200] }.inputs ∧
    successfulDecodes 2 { holding goodFrame with inputs := [.command 0x2200] } = 1 := by decide +kernel
theorem witness_ReadCountHalves : successfulDecodes 2 { State.reset with inputs := presented [0x2101, 0x2200] } = 0 := by
  decide +kernel
/-- A state that meets the invariant with VALID = 1, and a step from it. -/
theorem witness_Invariant : ∃ s t, State.Inv s ∧ s.valid = 1 ∧ step s = .next t :=
  ⟨{ State.reset with
      rAddr := 0x01, rFunc := 0x03, rBcnt := 0x04, hum := 0x01F4, temp := 0x00C8, valid := 1, readCount := 1,
      rxCrc := 0xABBB, calcCrc := 0xABBB, response := some ⟨0x00, 0xABBB⟩ }, _, by decide +kernel, rfl, rfl⟩
theorem witness_Assembler : decode 0x2201 = .error (.nonzeroArgument 0x22 0x01) ∧ decode 0x2200 = .ok .rxDecode := by decide
theorem witness_FailedPoll_write : (7 : Nat) ≠ 8 := by decide
theorem witness_FailedPoll_short : goodFrame.dropLast.length ≤ 9 ∧ decodeFrame goodFrame.dropLast = .error .readShort := by
  decide
theorem witness_FailedPoll_mismatch : decodeFrame [0, 0, 0, 0, 0, 0, 0, 0, 0] = .error .crcMismatch := by decide +kernel
theorem witness_FailedPoll_policy : ∃ c r, pollCycle ⟨7, []⟩ State.reset = .next c ∧ c.ending = .failed (.writeShort 7) ∧
    pollLoop ⟨.skipAndContinue, 1000⟩ [] c.state = .next r := ⟨_, _, rfl, rfl, rfl⟩

end Sys2Proof.Tests
end

section
/-! Proofs for the rules of STATUS, VALID and READ_COUNT (R35, R39, R40). First the facts of what a word can do to the
block, with RX_DECODE apart from every other word; then what no command reads of VALID; then the three obligations. -/

namespace Sys2Proof.Machine

/-! ## What a word can do -/

/-- The block runs RX_DECODE's meaning on a word that decodes to it. -/
theorem command_eq_execRxDecode {w : Word16} (hw : decode w = .ok .rxDecode) (s : State) :
    command w s = execRxDecode s := by
  simp [command, hw, exec]

/-- A command other than RX_DECODE moves at most CRC and the buffer before it is answered (R32). -/
theorem exec_eq_respond_of_ne_rxDecode {i : Instr} (hi : i ≠ .rxDecode) (s : State) :
    ∃ st d c b, exec i s = .next (respond st d { s with crc := c, rxbuf := b }) := by
  cases i with
  | rxDecode => exact absurd rfl hi
  | reqRead k => simp only [exec, execReqRead]; split <;> exact ⟨_, _, _, _, rfl⟩
  | rxPush b => simp only [exec, execRxPush]; split <;> exact ⟨_, _, _, _, rfl⟩
  | rdReg r => simp only [exec, execRdReg]; split <;> exact ⟨_, _, _, _, rfl⟩
  | nop => exact ⟨_, _, _, _, rfl⟩
  | crcInit => exact ⟨_, _, _, _, rfl⟩
  | crcByte b => exact ⟨_, _, _, _, rfl⟩
  | crcRead => exact ⟨_, _, _, _, rfl⟩
  | rxClear => exact ⟨_, _, _, _, rfl⟩

/-- The same for every word that does not decode to RX_DECODE, illegal words included (R193). -/
theorem command_eq_respond_of_not_rxDecode {w : Word16} (hw : decode w ≠ .ok .rxDecode) (s : State) :
    ∃ st d c b, command w s = .next (respond st d { s with crc := c, rxbuf := b }) := by
  unfold command
  cases hd : decode w with
  | error e => exact ⟨_, _, _, _, rfl⟩
  | ok i => exact exec_eq_respond_of_ne_rxDecode (fun hi => hw (by rw [hd, hi])) s

/-- Every word from every state ends in an answer (R45, R214). -/
theorem command_eq_respond (w : Word16) (s : State) : ∃ st d u, command w s = .next (respond st d u) := by
  by_cases hw : decode w = .ok .rxDecode
  · rw [command_eq_execRxDecode hw]
    rcases execRxDecode_cases s with ⟨_, h⟩ | ⟨F, _, _, h⟩ | ⟨F, _, _, h⟩ <;> exact ⟨_, _, _, h⟩
  · obtain ⟨st, d, c, b, h⟩ := command_eq_respond_of_not_rxDecode hw s
    exact ⟨st, d, _, h⟩

/-- Every step answers a next state (R45, R213). -/
theorem step_eq_next (s : State) : ∃ t, step s = .next t := by
  unfold step
  split
  · exact ⟨_, rfl⟩
  · exact ⟨_, rfl⟩
  · next w t _ =>
    obtain ⟨st, d, u, h⟩ := command_eq_respond w t
    exact ⟨_, h⟩

/-! ## STATUS -/

/-- The word 0x3000 reads STATUS as it stands before the read. -/
theorem command_readStatus (s : State) : command 0x3000 s = .next (respond .ok (zext16 s.status) s) := rfl

/-- Settles O41: the word before is answered with its STATUS as STAT, and the two reads then follow `command_readStatus`. -/
theorem statusReadReturnsThePreviousStatus : Obligations.StatusReadReturnsThePreviousStatus := by
  intro w s
  obtain ⟨st, d, u, h⟩ := command_eq_respond w s
  exact ⟨_, _, _, h, command_readStatus _, command_readStatus _, rfl, rfl, rfl⟩

/-! ## VALID -/

theorem valid_of_not_rxDecode {w : Word16} {s t : State} (hw : decode w ≠ .ok .rxDecode) (h : command w s = .next t) :
    t.valid = s.valid := by
  obtain ⟨st, d, c, b, h'⟩ := command_eq_respond_of_not_rxDecode hw s
  cases h'.symm.trans h
  rfl

/-- RX_DECODE ends with OK and VALID = 1, or with one of its two errors and VALID = 0. -/
theorem execRxDecode_valid_status {s t : State} (h : execRxDecode s = .next t) :
    (t.valid = 1 ∧ t.status = 0x00) ∨ (t.valid = 0 ∧ (t.status = 0x10 ∨ t.status = 0x11)) := by
  rcases execRxDecode_cases s with ⟨_, h'⟩ | ⟨F, _, _, h'⟩ | ⟨F, _, _, h'⟩ <;> cases h'.symm.trans h
  · exact .inr ⟨rfl, .inl rfl⟩
  · exact .inr ⟨rfl, .inr rfl⟩
  · exact .inl ⟨rfl, rfl⟩

/-- RX_DECODE overwrites VALID on every path and never reads it. -/
theorem execRxDecode_withValid (v : BitVec 1) (s : State) : execRxDecode { s with valid := v } = execRxDecode s := by
  simp only [execRxDecode, latchCrcs, decodeFrame]
  cases frameOfBytes s.rxbuf with
  | none => rfl
  | some F => cases validate F <;> rfl

theorem indexOperand_toNat (r : Byte) : (indexOperand r).toNat = r.toNat :=
  BitVec.toNat_setWidth_of_le (by decide)

/-- Only register 0x03 shows VALID. -/
theorem readReg_withValid {r : Word16} (hr : r.toNat ≠ 0x03) (v : BitVec 1) (s : State) :
    readReg { s with valid := v } r = readReg s r := by
  unfold readReg
  split
  case h_4 h => exact absurd h hr
  all_goals rfl

theorem execRdReg_withValid {r : Byte} (hr : r ≠ 0x03) (v : BitVec 1) {s t : State} (h : execRdReg r s = .next t) :
    execRdReg r { s with valid := v } = .next { t with valid := v } := by
  have hn : (indexOperand r).toNat ≠ 0x03 := by
    rw [indexOperand_toNat]
    exact fun hc => hr (BitVec.eq_of_toNat_eq hc)
  simp only [execRdReg, readReg_withValid hn] at h ⊢
  split at h <;> cases h <;> rfl

/-- A command other than RX_DECODE and RD_REG 0x03 carries VALID along and does the same for both of its values. -/
theorem exec_withValid {i : Instr} {s t : State} (hd : i ≠ .rxDecode) (hr : i ≠ .rdReg 0x03) (v : BitVec 1)
    (h : exec i s = .next t) : exec i { s with valid := v } = .next { t with valid := v } := by
  cases i with
  | rxDecode => exact absurd rfl hd
  | rdReg r => exact execRdReg_withValid (fun hc => hr (by rw [hc])) v h
  | reqRead k => simp only [exec, execReqRead] at h ⊢; split at h <;> cases h <;> rfl
  | rxPush b =>
    by_cases hb : s.rxbuf.length < frameLength
    · simp only [exec, execRxPush, if_pos hb] at h ⊢; cases h; rfl
    · simp only [exec, execRxPush, if_neg hb] at h ⊢; cases h; rfl
  | nop => cases h; rfl
  | crcInit => cases h; rfl
  | crcByte b => cases h; rfl
  | crcRead => cases h; rfl
  | rxClear => cases h; rfl

/-- The same for words, illegal ones included. -/
theorem command_withValid {w : Word16} {s t : State} (hw : decode w ≠ .ok .rxDecode) (hr : decode w ≠ .ok (.rdReg 0x03))
    (v : BitVec 1) (h : command w s = .next t) : command w { s with valid := v } = .next { t with valid := v } := by
  unfold command at h ⊢
  cases hd : decode w with
  | error e => rw [hd] at h; cases h; rfl
  | ok i =>
    rw [hd] at h
    exact exec_withValid (fun hi => hw (by rw [hd, hi])) (fun hi => hr (by rw [hd, hi])) v h

/-- RD_REG 0x03 answers FLAGS and changes nothing else (R43). -/
theorem command_readFlags {w : Word16} (hw : decode w = .ok (.rdReg 0x03)) (s : State) :
    command w s = .next (respond .ok (flagsWord s) s) := by
  simp only [command, hw]
  rfl

/-- From two states that differ only in VALID a word leaves states that differ at most in VALID and the answer, and the
answer differs for RD_REG 0x03 alone. -/
theorem command_independent_of_valid {w : Word16} {s t : State} (v : BitVec 1) (h : command w s = .next t) :
    ∃ u, command w { s with valid := v } = .next u ∧ { u with valid := t.valid, response := t.response } = t ∧
      (decode w ≠ .ok (.rdReg 0x03) → u.response = t.response) ∧ (decode w = .ok .rxDecode → u.valid = t.valid) := by
  by_cases hw : decode w = .ok .rxDecode
  · have hu : command w { s with valid := v } = .next t := by
      rw [command_eq_execRxDecode hw, execRxDecode_withValid, ← command_eq_execRxDecode hw, h]
    exact ⟨t, hu, rfl, fun _ => rfl, fun _ => rfl⟩
  by_cases hr : decode w = .ok (.rdReg 0x03)
  · cases (command_readFlags hr s).symm.trans h
    exact ⟨_, command_readFlags hr _, rfl, fun hc => absurd hr hc, fun hc => absurd hc hw⟩
  · exact ⟨_, command_withValid hw hr v h, rfl, fun _ => rfl, fun hc => absurd hc hw⟩

/-- Settles O42, from RX_DECODE's outcomes, the frame of the other words and `command_independent_of_valid`. -/
theorem validIsWrittenByDecodeAndReadByNone : Obligations.ValidIsWrittenByDecodeAndReadByNone := by
  intro w s t v h
  refine ⟨fun hw => ?_, fun hw => valid_of_not_rxDecode hw h, fun hw => ?_, command_independent_of_valid v h⟩
  · rw [command_eq_execRxDecode hw] at h
    rcases execRxDecode_valid_status h with ⟨hv, hs⟩ | ⟨hv, hs | hs⟩ <;> simp [hv, hs]
  · cases (command_readFlags hw s).symm.trans h
    rfl

/-! ## READ_COUNT -/

theorem decodesNow_of_not_rxDecode {w : Word16} (hw : decode w ≠ .ok .rxDecode) (s : State) :
    decodesNow (present w s) = false := by
  simp only [decodesNow, present_inputs]
  split
  · next hd _ => exact absurd hd hw
  · rfl

theorem decodesNow_of_rxDecode {w : Word16} (hw : decode w = .ok .rxDecode) (s : State) :
    decodesNow (present w s) = (decodeFrame s.rxbuf).isOk := by
  simp only [decodesNow, present_inputs, present_rxbuf, hw]
  cases decodeFrame s.rxbuf <;> rfl

/-- RX_DECODE counts exactly the frames the pure function accepts. -/
theorem execRxDecode_readCount {s t : State} (h : execRxDecode s = .next t) :
    t.readCount = s.readCount + if (decodeFrame s.rxbuf).isOk then 1 else 0 := by
  unfold execRxDecode at h
  have hl : (latchCrcs s.rxbuf s).readCount = s.readCount := by rw [latchCrcs_eq]
  cases hd : decodeFrame s.rxbuf with
  | ok f => simp only [hd] at h; cases h; simp [acceptFrame, hl, Except.isOk, Except.toBool]
  | error e =>
    cases e <;> simp only [hd] at h <;> cases h <;> simp [rejectFrame, hl, Except.isOk, Except.toBool]

/-- A word adds 1 to READ_COUNT when it is a successful decode, and otherwise leaves it. -/
theorem command_readCount {w : Word16} {s t : State} (h : command w s = .next t) :
    t.readCount = s.readCount + if decodesNow (present w s) then 1 else 0 := by
  by_cases hw : decode w = .ok .rxDecode
  · rw [command_eq_execRxDecode hw] at h
    rw [decodesNow_of_rxDecode hw, execRxDecode_readCount h]
  · obtain ⟨st, d, c, b, h'⟩ := command_eq_respond_of_not_rxDecode hw s
    cases h'.symm.trans h
    simp [decodesNow_of_not_rxDecode hw]

/-- A step that is no reset counts the successful decode it makes, and no later input becomes a reset. -/
theorem step_readCount {s t : State} (hs : HostInput.reset ∉ s.inputs) (h : step s = .next t) :
    t.readCount = s.readCount + (if decodesNow s then 1 else 0) ∧ HostInput.reset ∉ t.inputs := by
  rcases step_cases h with ⟨hi, rfl⟩ | ⟨rest, hi, _⟩ | ⟨w, rest, hi, hc⟩
  · exact ⟨by simp [decodesNow, hi], hs⟩
  · exact absurd (hi ▸ List.mem_cons_self) hs
  · have hp : present w { s with inputs := rest } = s := by simp [present, ← hi]
    have hn := command_readCount hc
    rw [hp] at hn
    refine ⟨hn, ?_⟩
    rw [command_inputs hc]
    exact fun hm => hs (hi ▸ List.mem_cons_of_mem _ hm)

/-- One more step makes the successful decode of its first step, and those of the rest. -/
theorem successfulDecodes_succ {s t : State} (n : Nat) (h : step s = .next t) :
    successfulDecodes (n + 1) s = (if decodesNow s then 1 else 0) + successfulDecodes n t := by
  simp [successfulDecodes, h]

theorem steps_succ {s t : State} (n : Nat) (h : step s = .next t) : steps (n + 1) s = steps n t := by
  simp [steps, h, onNext]

/-- Without reset READ_COUNT grows by the number of successful decodes. -/
theorem steps_readCount (n : Nat) (s : State) (hs : HostInput.reset ∉ s.inputs) :
    ∃ t, steps n s = .next t ∧ t.readCount = s.readCount + BitVec.ofNat 32 (successfulDecodes n s) := by
  induction n generalizing s with
  | zero => exact ⟨s, rfl, by simp [successfulDecodes]⟩
  | succ n ih =>
    obtain ⟨u, hu⟩ := step_eq_next s
    obtain ⟨hcount, hinputs⟩ := step_readCount hs hu
    obtain ⟨t, ht, hrest⟩ := ih u hinputs
    refine ⟨t, (steps_succ n hu).trans ht, ?_⟩
    rw [hrest, hcount, successfulDecodes_succ n hu, BitVec.ofNat_add, BitVec.add_assoc]
    split <;> rfl

/-- Settles O43, by induction on the number of steps (`steps_readCount`); from reset the counter starts at 0. -/
theorem readCountCountsSuccessfulDecodes : Obligations.ReadCountCountsSuccessfulDecodes := by
  refine ⟨steps_readCount, fun n ins hins => ?_⟩
  obtain ⟨t, ht, hcount⟩ := steps_readCount n { State.reset with inputs := ins } hins
  refine ⟨t, ht, ?_⟩
  rw [hcount]
  simp [State.reset]

end Sys2Proof.Machine
end

section
/-! Proofs for the illegal encodings (R86, R193). R86 sorts the opcodes into those without operand, those with one, and
the undefined ones; one lemma says what the decoder answers in each class, and the illegal words are read off it. -/

namespace Sys2Proof

/-- The opcodes of R82 whose `ARG` must be zero (R81 d). -/
def OperandlessOpcode (op : Byte) : Prop := op = 0x00 ∨ op = 0x01 ∨ op = 0x03 ∨ op = 0x20 ∨ op = 0x22

/-- The opcodes of R82 that take `ARG` as their operand (R81 a, b, c). -/
def OperandOpcode (op : Byte) : Prop := op = 0x02 ∨ op = 0x10 ∨ op = 0x21 ∨ op = 0x30

/-- R86 (a): the opcodes between and after those of R82. -/
def UndefinedOpcode (op : Byte) : Prop :=
  (0x04 ≤ op.toNat ∧ op.toNat ≤ 0x0F) ∨ (0x11 ≤ op.toNat ∧ op.toNat ≤ 0x1F) ∨
  (0x23 ≤ op.toNat ∧ op.toNat ≤ 0x2F) ∨ (0x31 ≤ op.toNat ∧ op.toNat ≤ 0xFF)

/-- The ranges of R86 leave out exactly the nine opcodes of R82. -/
theorem undefinedOpcode_iff (op : Byte) : UndefinedOpcode op ↔ ¬ OperandlessOpcode op ∧ ¬ OperandOpcode op := by
  unfold UndefinedOpcode OperandlessOpcode OperandOpcode
  bv_omega

theorem not_operandlessOpcode_of_operandOpcode {op : Byte} (h : OperandOpcode op) : ¬ OperandlessOpcode op := by
  rcases h with rfl | rfl | rfl | rfl <;> simp [OperandlessOpcode]

/-- What the decoder answers for each of the three classes of opcodes (R84). -/
theorem decode_commandWord_cases (op arg : Byte) :
    (OperandlessOpcode op ∧ ∃ i, decode (commandWord op arg) = noOperand op arg i) ∨
    (OperandOpcode op ∧ ∃ i, decode (commandWord op arg) = .ok i) ∨
    (UndefinedOpcode op ∧ decode (commandWord op arg) = .error (.undefinedOpcode op arg)) := by
  rw [undefinedOpcode_iff]
  simp only [decode, opField_commandWord, argField_commandWord]
  split
  case h_10 => simp_all [OperandlessOpcode, OperandOpcode]
  all_goals simp [OperandlessOpcode, OperandOpcode]

/-- The check rejects exactly a nonzero `ARG`. -/
theorem noOperand_eq_error {op arg : Byte} {i : Instr} {e : IllegalWord} :
    noOperand op arg i = .error e ↔ arg ≠ 0x00 ∧ e = .nonzeroArgument op arg := by
  unfold noOperand
  split
  · next h => simp [h]
  · next h => rw [Except.error.injEq, and_iff_right h, eq_comm]

/-- R86: the words the decoder rejects are those with an undefined opcode, and those with a nonzero `ARG` where it must be
zero. -/
theorem exists_decode_commandWord_eq_error_iff (op arg : Byte) :
    (∃ e, decode (commandWord op arg) = .error e) ↔ UndefinedOpcode op ∨ (OperandlessOpcode op ∧ arg ≠ 0x00) := by
  have hu := undefinedOpcode_iff op
  rcases decode_commandWord_cases op arg with ⟨ho, i, hd⟩ | ⟨ho, i, hd⟩ | ⟨ho, hd⟩
  · simp [hd, noOperand_eq_error, hu, ho]
  · simp [hd, hu, ho, not_operandlessOpcode_of_operandOpcode ho]
  · simp [hd, ho]

end Sys2Proof

namespace Sys2Proof.Machine

/-- R193: a word the decoder rejects is answered ERR_ILLEGAL and changes nothing else. -/
theorem command_of_decode_eq_error {w : Word16} {e : IllegalWord} (h : decode w = .error e) (s : State) :
    command w s = .next (respond .errIllegal 0x0000 s) := by
  simp [command, h, execIllegal]

/-- Settles O4: the words of R86 are those the decoder rejects (`exists_decode_commandWord_eq_error_iff`), and a rejected
word is answered by `command_of_decode_eq_error`. -/
theorem illegalWordsAnswerErrIllegal : Obligations.IllegalWordsAnswerErrIllegal := by
  intro op arg
  have hiff := exists_decode_commandWord_eq_error_iff op arg
  refine ⟨fun hill s => ?_, fun hleg => ?_⟩
  · obtain ⟨e, he⟩ := hiff.mpr hill
    exact command_of_decode_eq_error he s
  · cases hd : decode (op ++ arg) with
    | ok i => exact ⟨i, rfl⟩
    | error e => exact absurd (hiff.mp ⟨e, hd⟩) hleg

end Sys2Proof.Machine
end

section
/-! Proofs for the CRC functions (R101-R103, R108-R110). The bit step is linear over XOR, injective, and shifts a zero
bit out. The byte step and the fold over bytes inherit this, which gives linearity, the residue and the detection of
single errors. -/

namespace Sys2Proof.Machine

/-! ## The bit step (R101) -/

/-- The bit step is the shift and, XORed onto it, the polynomial where the bit tested is 1. -/
theorem crcBit_eq_xor (c : Word16) : crcBit c = (c >>> 1) ^^^ (if c.getLsbD 0 then crcPolynomial else 0) := by
  unfold crcBit
  split <;> simp

theorem crcBit_xor (c d : Word16) : crcBit (c ^^^ d) = crcBit c ^^^ crcBit d := by
  have hbits : ∀ p q : Bool, (if (p ^^ q) then crcPolynomial else 0) =
      (if p then crcPolynomial else 0) ^^^ (if q then crcPolynomial else 0) := by decide
  rw [crcBit_eq_xor, crcBit_eq_xor, crcBit_eq_xor, BitVec.getLsbD_xor, BitVec.ushiftRight_xor_distrib, hbits]
  ac_rfl

/-- The polynomial has bit 15, which the shift leaves clear: there the bit tested shows. -/
theorem getLsbD_crcBit_top (c : Word16) : (crcBit c).getLsbD 15 = c.getLsbD 0 := by
  have hpoly : ∀ p : Bool, (if p then crcPolynomial else 0).getLsbD 15 = p := by decide
  rw [crcBit_eq_xor, BitVec.getLsbD_xor, hpoly, BitVec.getLsbD_ushiftRight, BitVec.getLsbD_of_ge c (1 + 15) (by decide),
    Bool.false_xor]

theorem crcBit_injective : Function.Injective crcBit := by
  intro c d h
  have hlow : c.getLsbD 0 = d.getLsbD 0 := by rw [← getLsbD_crcBit_top, h, getLsbD_crcBit_top]
  have hshift : c >>> 1 = d >>> 1 := by
    rw [crcBit_eq_xor, crcBit_eq_xor, hlow] at h
    exact BitVec.xor_left_inj _ |>.mp h
  apply BitVec.eq_of_getLsbD_eq
  rintro (_ | i) _
  · exact hlow
  · have hi := congrArg (BitVec.getLsbD · i) hshift
    simpa only [BitVec.getLsbD_ushiftRight, Nat.add_comm] using hi

/-- As long as the bits tested are 0, bit steps are shifts. -/
theorem iterate_crcBit_of_low_bits_zero (n : Nat) (c : Word16) (h : ∀ i < n, c.getLsbD i = false) :
    Nat.iterate crcBit n c = c >>> n := by
  induction n with
  | zero => simp
  | succ n ih =>
    have htested : (c >>> n).getLsbD 0 = false := by
      simpa only [BitVec.getLsbD_ushiftRight, Nat.add_zero] using h n (by omega)
    rw [Function.iterate_succ_apply', ih (fun i hi => h i (by omega)), crcBit, htested, if_neg Bool.false_ne_true,
      BitVec.shiftRight_add]

/-! ## The byte step (R102) -/

theorem iterate_crcBit_xor (n : Nat) (c d : Word16) :
    Nat.iterate crcBit n (c ^^^ d) = Nat.iterate crcBit n c ^^^ Nat.iterate crcBit n d := by
  induction n generalizing c d with
  | zero => rfl
  | succ n ih => rw [Function.iterate_succ_apply, crcBit_xor, ih]; rfl

theorem zext16_xor (a b : Byte) : zext16 (a ^^^ b) = zext16 a ^^^ zext16 b := BitVec.setWidth_xor

theorem crcStep8_xor (c d : Word16) (a b : Byte) : crcStep8 (c ^^^ d) (a ^^^ b) = crcStep8 c a ^^^ crcStep8 d b := by
  unfold crcStep8
  rw [← iterate_crcBit_xor, zext16_xor]
  congr 1
  ac_rfl

/-- The byte step is injective in the word that enters the eight bit steps. -/
theorem crcStep8_eq_iff (c d : Word16) (a b : Byte) : crcStep8 c a = crcStep8 d b ↔ c ^^^ zext16 a = d ^^^ zext16 b :=
  (crcBit_injective.iterate 8).eq_iff

theorem crcStep8_left_injective (b : Byte) : Function.Injective (crcStep8 · b) := by
  intro c d h
  exact (BitVec.xor_left_inj _).mp ((crcStep8_eq_iff c d b b).mp h)

theorem zext16_injective : Function.Injective zext16 := by
  intro a b h
  simpa [zext16] using congrArg (BitVec.setWidth 8) h

theorem crcStep8_right_injective (c : Word16) : Function.Injective (crcStep8 c) := by
  intro a b h
  exact zext16_injective ((BitVec.xor_right_inj _).mp ((crcStep8_eq_iff c c a b).mp h))

/-- A byte that equals the low half of the accumulator cancels it, so that the eight bit steps shift the high half down. -/
theorem crcStep8_le16_low (lo hi : Byte) : crcStep8 (le16 lo hi) lo = zext16 hi := by
  have hlow : ∀ i < 8, (le16 lo hi ^^^ zext16 lo).getLsbD i = false := by
    intro i hi8
    rw [BitVec.getLsbD_xor, le16_eq_be16, getLsbD_be16, if_pos hi8, zext16, BitVec.getLsbD_setWidth]
    simp [show i < 16 by omega]
  rw [crcStep8, iterate_crcBit_of_low_bits_zero 8 _ hlow]
  apply BitVec.eq_of_getLsbD_eq
  intro i hi16
  simp [le16_eq_be16, getLsbD_be16, zext16, hi16]

theorem crcStep8_zext16_self (b : Byte) : crcStep8 (zext16 b) b = 0 := by
  rw [crcStep8, BitVec.xor_self]
  exact iterate_crcBit_of_low_bits_zero 8 0 (by simp)

/-! ## The fold over bytes (R103) -/

theorem crc16_append (d e : List Byte) : crc16 (d ++ e) = e.foldl crcStep8 (crc16 d) := List.foldl_append

theorem foldl_crcStep8_injective (d : List Byte) : Function.Injective (d.foldl crcStep8 ·) := by
  induction d with
  | nil => exact fun _ _ h => h
  | cons b d ih => exact ih.comp (crcStep8_left_injective b)

/-- Folding is linear in the accumulator and the bytes together. -/
theorem foldl_crcStep8_xor {a b : List Byte} (h : a.length = b.length) (c d : Word16) :
    (xorBytes a b).foldl crcStep8 (c ^^^ d) = a.foldl crcStep8 c ^^^ b.foldl crcStep8 d := by
  induction a generalizing b c d with
  | nil => cases b with
    | nil => rfl
    | cons y b => simp at h
  | cons x a ih => cases b with
    | nil => simp at h
    | cons y b =>
      have hrest := ih (Nat.succ.inj h) (crcStep8 c x) (crcStep8 d y)
      rwa [← crcStep8_xor] at hrest

theorem length_xorBytes {a b : List Byte} (h : a.length = b.length) : (xorBytes a b).length = a.length := by
  simp [xorBytes, h]

theorem xorBytes_zeroBytes (a : List Byte) : xorBytes a (zeroBytes a.length) = a := by
  induction a with
  | nil => rfl
  | cons x a ih =>
    have hx : x ^^^ 0 = x := BitVec.xor_zero
    exact congrArg₂ List.cons hx ih

/-- Two bytes bring the accumulator to zero exactly when they are its low and its high byte, in that order. -/
theorem foldl_crcStep8_pair_eq_zero_iff (c : Word16) (lo hi : Byte) : [lo, hi].foldl crcStep8 c = 0 ↔ c = le16 lo hi := by
  have hzero : [lo, hi].foldl crcStep8 (le16 lo hi) = 0 := by
    simp only [List.foldl_cons, List.foldl_nil, crcStep8_le16_low, crcStep8_zext16_self]
  rw [← hzero]
  exact (foldl_crcStep8_injective [lo, hi]).eq_iff

/-- A frame is valid exactly when the CRC of all its bytes is zero. -/
theorem crc16_frameBytes_eq_zero_iff (F : RawFrame) : crc16 (frameBytes F) = 0 ↔ validate F = true := by
  rw [frameBytes, crc16_append, foldl_crcStep8_pair_eq_zero_iff, validate_iff, computedCrc, transmittedCrc]

/-- Settles O18: the two appended bytes are the accumulator's own (`foldl_crcStep8_pair_eq_zero_iff`). -/
theorem residueLaw : Obligations.ResidueLaw := by
  refine ⟨fun d => ?_, crc16_frameBytes_eq_zero_iff⟩
  rw [crc16_append]
  exact (foldl_crcStep8_pair_eq_zero_iff _ _ _).mpr (be16_bytes (crc16 d)).symm

/-- Settles O19: `foldl_crcStep8_xor` twice, with `0xFFFF` written as `(0xFFFF ^^^ 0xFFFF) ^^^ 0xFFFF`. -/
theorem crcLinearity : Obligations.CrcLinearity := by
  intro a b h
  have hlen : (xorBytes a b).length = (zeroBytes a.length).length := by simp [length_xorBytes h, zeroBytes]
  calc crc16 (xorBytes a b)
      = (xorBytes (xorBytes a b) (zeroBytes a.length)).foldl crcStep8 (crcInitial ^^^ crcInitial ^^^ crcInitial) := by
        rw [← length_xorBytes h, xorBytes_zeroBytes, BitVec.xor_self, BitVec.zero_xor]; rfl
    _ = crc16 a ^^^ crc16 b ^^^ crc16 (zeroBytes a.length) := by
        rw [foldl_crcStep8_xor hlen, foldl_crcStep8_xor h]; rfl

/-! ## Single errors (R110) -/

theorem eq_of_zip_countP_ne_eq_zero {a b : List Byte} (h : a.length = b.length)
    (hzero : (a.zip b).countP (fun p => p.1 != p.2) = 0) : a = b := by
  have hsame : ∀ p ∈ a.zip b, p.1 = p.2 := by simpa [List.countP_eq_zero] using hzero
  calc a = (a.zip b).map Prod.fst := (List.map_fst_zip h.le).symm
    _ = (a.zip b).map Prod.snd := List.map_congr_left hsame
    _ = b := List.map_snd_zip h.ge

/-- Sequences of one length that differ at exactly one byte have different CRCs: the bytes before leave the accumulators
equal, the byte itself makes them differ, and the bytes after keep them apart. -/
theorem foldl_crcStep8_ne_of_one_difference {a b : List Byte} (h : a.length = b.length)
    (hone : (a.zip b).countP (fun p => p.1 != p.2) = 1) (c : Word16) : a.foldl crcStep8 c ≠ b.foldl crcStep8 c := by
  induction a generalizing b c with
  | nil => simp at hone
  | cons x a ih => cases b with
    | nil => simp at hone
    | cons y b =>
      rw [List.zip_cons_cons, List.countP_cons] at hone
      have hlen : a.length = b.length := Nat.succ.inj h
      by_cases hxy : x = y
      · subst hxy
        exact ih hlen (by simpa using hone) (crcStep8 c x)
      · have hab : a = b := by
          refine eq_of_zip_countP_ne_eq_zero hlen ?_
          simpa [hxy] using hone
        subst hab
        exact fun he => hxy (crcStep8_right_injective c (foldl_crcStep8_injective a he))

theorem validate_eq_false_of_byteDifferences_eq_one {F G : RawFrame} (hF : validate F = true)
    (h : byteDifferences F G = 1) : validate G = false := by
  rw [Bool.eq_false_iff, ne_eq, ← crc16_frameBytes_eq_zero_iff]
  rw [← crc16_frameBytes_eq_zero_iff] at hF
  intro hG
  exact foldl_crcStep8_ne_of_one_difference (a := frameBytes F) (b := frameBytes G) rfl h crcInitial (hF.trans hG.symm)

/-- How many of its 8 bit positions a pair of bytes differs at: the summand of `bitDifferences`. -/
def differingBits (p : Byte × Byte) : Nat := (List.range 8).countP fun k => (p.1 ^^^ p.2).getLsbD k

theorem bitDifferences_eq_sum (F G : RawFrame) :
    bitDifferences F G = (((frameBytes F).zip (frameBytes G)).map differingBits).sum := rfl

theorem differingBits_eq_zero_iff (p : Byte × Byte) : differingBits p = 0 ↔ p.1 = p.2 := by
  rw [differingBits, List.countP_eq_zero, ← BitVec.xor_eq_zero_iff]
  constructor
  · intro h
    apply BitVec.eq_of_getLsbD_eq
    intro k hk
    simpa using h k (List.mem_range.mpr hk)
  · intro h k _
    simp [h]

/-- One differing bit in all makes one differing byte. -/
theorem countP_ne_eq_one_of_sum_differingBits_eq_one {l : List (Byte × Byte)} (h : (l.map differingBits).sum = 1) :
    l.countP (fun p => p.1 != p.2) = 1 := by
  induction l with
  | nil => simp at h
  | cons p l ih =>
    rw [List.map_cons, List.sum_cons] at h
    rw [List.countP_cons]
    by_cases hp : p.1 = p.2
    · have hbits : differingBits p = 0 := (differingBits_eq_zero_iff p).mpr hp
      simpa [hp] using ih (by omega)
    · have hbits : differingBits p ≠ 0 := mt (differingBits_eq_zero_iff p).mp hp
      have hrest : ∀ n ∈ l.map differingBits, n = 0 := List.sum_eq_zero_iff_forall_eq_nat.mp (by omega)
      have hcount : l.countP (fun p => p.1 != p.2) = 0 := by
        rw [List.countP_eq_zero]
        intro q hq
        simpa using (differingBits_eq_zero_iff q).mp (hrest _ (List.mem_map_of_mem hq))
      simp [hcount, hp]

/-- Settles O20: one differing byte changes the CRC of the frame, and one differing bit makes one differing byte. -/
theorem singleErrorsAreDetected : Obligations.SingleErrorsAreDetected := by
  intro F G hF
  refine ⟨fun hbit => ?_, validate_eq_false_of_byteDifferences_eq_one hF⟩
  rw [bitDifferences_eq_sum] at hbit
  exact validate_eq_false_of_byteDifferences_eq_one hF (countP_ne_eq_one_of_sum_differingBits_eq_one hbit)

/-- Settles O12: the definitions say it, the append law is `crc16_append`, and the vector is computed. -/
theorem crcFunctionsFollowTheRules : Obligations.CrcFunctionsFollowTheRules :=
  ⟨fun _ => rfl, fun _ _ => rfl, rfl, fun d b => crc16_append d [b], by decide +kernel⟩

end Sys2Proof.Machine
end

section
/-! Proofs for the commands of the CRC engine (R104-R107, R112). First what each of its words answers, then what any word
does to the accumulator (`crcAfter`), from which the accumulator law and the independence follow. -/

namespace Sys2Proof.Machine

/-! ## The answers of the CRC commands -/

theorem command_of_decode_eq_ok {w : Word16} {i : Instr} (h : decode w = .ok i) (s : State) : command w s = exec i s := by
  simp [command, h]

theorem exec_crcInit (s : State) : exec .crcInit s = .next (respond .ok crcInitial (setCrc crcInitial s)) := rfl

theorem exec_crcByte (b : Byte) (s : State) :
    exec (.crcByte b) s = .next (respond .ok (crcStep8 s.crc b) (setCrc (crcStep8 s.crc b) s)) := rfl

theorem exec_crcRead (s : State) : exec .crcRead s = .next (respond .ok s.crc s) := rfl

theorem decode_crcInitWord (arg : Byte) : decode (commandWord 0x01 arg) = noOperand 0x01 arg .crcInit := by
  simp only [decode, opField_commandWord, argField_commandWord]
  rfl

theorem decode_crcByteWord (b : Byte) : decode (commandWord 0x02 b) = .ok (.crcByte b) := by
  simp only [decode, opField_commandWord, argField_commandWord]
  rfl

theorem decode_crcReadWord (arg : Byte) : decode (commandWord 0x03 arg) = noOperand 0x03 arg .crcRead := by
  simp only [decode, opField_commandWord, argField_commandWord]
  rfl

/-- A word whose `ARG` must be zero runs its command, or is illegal (R81 d, R193). -/
theorem command_of_decode_eq_noOperand {w : Word16} {op arg : Byte} {i : Instr} (h : decode w = noOperand op arg i)
    (s : State) : command w s = if arg = 0x00 then exec i s else .next (respond .errIllegal 0x0000 s) := by
  split
  · next harg => exact command_of_decode_eq_ok (h.trans (noOperand_eq_ok.mpr ⟨harg, rfl⟩)) s
  · next harg => exact command_of_decode_eq_error (h.trans (noOperand_eq_error.mpr ⟨harg, rfl⟩)) s

/-- Settles O13: the word is answered by `command_of_decode_eq_noOperand`. -/
theorem crcInitSetsTheAccumulator : Obligations.CrcInitSetsTheAccumulator := by
  refine ⟨exec_crcInit, fun arg s => ?_⟩
  refine (command_of_decode_eq_noOperand (decode_crcInitWord arg) s).trans ?_
  split <;> rfl

/-- Settles O14: the word runs the command (`decode_crcByteWord`), and the three values are computed. -/
theorem crcByteFoldsOneByte : Obligations.CrcByteFoldsOneByte :=
  ⟨exec_crcByte, fun b s => command_of_decode_eq_ok (decode_crcByteWord b) s, by decide, by decide, by decide⟩

/-- Settles O15: the word is answered by `command_of_decode_eq_noOperand`, and the accumulator is 0xFFFF at reset. -/
theorem crcReadReturnsTheAccumulator : Obligations.CrcReadReturnsTheAccumulator := by
  refine ⟨exec_crcRead, fun arg s => ?_, rfl⟩
  refine (command_of_decode_eq_noOperand (decode_crcReadWord arg) s).trans ?_
  split <;> rfl

/-! ## What a word does to the accumulator -/

/-- The accumulator after a word, from the accumulator before it (R33). -/
def crcAfter (w : Word16) (c : Word16) : Word16 :=
  match decode w with
  | .ok .crcInit => crcInitial
  | .ok (.crcByte b) => crcStep8 c b
  | _ => c

/-- Only CRC_INIT and CRC_BYTE move the accumulator (R33). -/
theorem exec_crc_of_ne {i : Instr} {s t : State} (hinit : i ≠ .crcInit) (hbyte : ∀ b, i ≠ .crcByte b)
    (h : exec i s = .next t) : t.crc = s.crc := by
  cases i with
  | crcInit => exact absurd rfl hinit
  | crcByte b => exact absurd rfl (hbyte b)
  | rxDecode =>
    have hl : (latchCrcs s.rxbuf s).crc = s.crc := by rw [latchCrcs_eq]
    rcases execRxDecode_cases s with ⟨_, he⟩ | ⟨F, _, _, he⟩ | ⟨F, _, _, he⟩ <;> cases he.symm.trans h <;>
      simp [rejectFrame, acceptFrame, hl]
  | reqRead k => simp only [exec, execReqRead] at h; split at h <;> cases h <;> rfl
  | rxPush b => simp only [exec, execRxPush] at h; split at h <;> cases h <;> rfl
  | rdReg r => simp only [exec, execRdReg] at h; split at h <;> cases h <;> rfl
  | nop => cases h; rfl
  | crcRead => cases h; rfl
  | rxClear => cases h; rfl

/-- CRC after any word is `crcAfter` of CRC before it: nothing else of the state enters. -/
theorem command_crc {w : Word16} {s t : State} (h : command w s = .next t) : t.crc = crcAfter w s.crc := by
  unfold crcAfter
  rcases command_cases h with ⟨i, hd, he⟩ | ⟨e, hd, rfl⟩
  · rw [hd]
    split
    · next hi => cases hi; cases he; rfl
    · next b hi => cases hi; cases he; rfl
    · next hinit hbyte =>
      exact exec_crc_of_ne (fun hi => hinit (congrArg _ hi)) (fun b hi => hbyte b (congrArg _ hi)) he
  · rw [hd]; rfl

/-- Every word but CRC_INIT folds in the bytes that `crcBytes` reads from it: one for CRC_BYTE, none otherwise. -/
theorem foldl_crcBytes_cons {w : Word16} (hw : decode w ≠ .ok .crcInit) (ws : List Word16) (c : Word16) :
    (crcBytes (w :: ws)).foldl crcStep8 c = (crcBytes ws).foldl crcStep8 (crcAfter w c) := by
  unfold crcAfter
  rw [crcBytes]
  split
  · next b hd => rw [hd]; rfl
  · next hbyte =>
    split
    · next hd => exact absurd hd hw
    · next b hd => exact absurd hd (hbyte b)
    · rfl

/-- A program without CRC_INIT folds its CRC_BYTE operands into the accumulator it starts with. -/
theorem runWords_crc (ws : List Word16) (s : State) (hws : ∀ w ∈ ws, decode w ≠ .ok .crcInit) :
    ∃ t, runWords ws s = .next t ∧ t.crc = (crcBytes ws).foldl crcStep8 s.crc := by
  induction ws generalizing s with
  | nil => exact ⟨_, rfl, rfl⟩
  | cons w ws ih =>
    obtain ⟨hw, hrest⟩ := List.forall_mem_cons.mp hws
    obtain ⟨st, d, u, hu⟩ := command_eq_respond w s
    obtain ⟨t, ht, hcrc⟩ := ih (respond st d u) hrest
    refine ⟨t, (runWords_cons ws hu).trans ht, ?_⟩
    rw [hcrc, command_crc hu, foldl_crcBytes_cons hw]

/-- Settles O16: CRC_INIT leaves 0xFFFF, and the words after it fold their bytes into that (`runWords_crc`). -/
theorem accumulatorLaw : Obligations.AccumulatorLaw := by
  intro ws s hws
  have hinit : command 0x0100 s = .next (respond .ok crcInitial (setCrc crcInitial s)) :=
    command_of_decode_eq_ok (decode_crcInitWord 0x00) s
  obtain ⟨t, ht, hcrc⟩ := runWords_crc ws (respond .ok crcInitial (setCrc crcInitial s)) hws
  exact ⟨t, (runWords_cons ws hinit).trans ht, hcrc⟩

/-- A CRC command answers OK with the accumulator as it leaves it (R104, R105, R106). -/
theorem command_crcCommand_response {w : Word16} {s t : State}
    (hw : decode w = .ok .crcInit ∨ decode w = .ok .crcRead ∨ ∃ b, decode w = .ok (.crcByte b))
    (h : command w s = .next t) : t.response = some ⟨0x00, t.crc⟩ := by
  rcases hw with hw | hw | ⟨b, hw⟩ <;> rw [command_of_decode_eq_ok hw] at h <;> cases h <;> rfl

/-- Settles O21: CRC by `command_crc`, and a CRC command's answer is its CRC (`command_crcCommand_response`). -/
theorem crcDependsOnlyOnCrcAndTheWord : Obligations.CrcDependsOnlyOnCrcAndTheWord := by
  intro w s₁ s₂ hs
  obtain ⟨st₁, d₁, u₁, h₁⟩ := command_eq_respond w s₁
  obtain ⟨st₂, d₂, u₂, h₂⟩ := command_eq_respond w s₂
  have hcrc : (respond st₁ d₁ u₁).crc = (respond st₂ d₂ u₂).crc := by rw [command_crc h₁, command_crc h₂, hs]
  refine ⟨_, _, h₁, h₂, hcrc, fun hw => ?_⟩
  rw [command_crcCommand_response hw h₁, command_crcCommand_response hw h₂, hcrc]

end Sys2Proof.Machine
end

section
/-! Proofs for the request (R130-R132). REQ_READ answers what the ROM holds at its index (`romByte`); a list of REQ_READs
then answers the ROM's bytes in the list's order, and REQ_FRAME is such a list. -/

namespace Sys2Proof.Machine

/-! ## REQ_READ (R132) -/

/-- The operand reaches the ROM unchanged (R81 b). -/
theorem romByte_indexOperand (i : Byte) : romByte (indexOperand i) = reqRom[i.toNat]? := by
  rw [romByte, indexOperand_toNat]

theorem exec_reqRead_of_romByte_eq_some {i b : Byte} (h : romByte (indexOperand i) = some b) (s : State) :
    exec (.reqRead i) s = .next (respond .ok (zext16 b) s) := by
  simp only [exec, execReqRead, h]

theorem exec_reqRead_of_romByte_eq_none {i : Byte} (h : romByte (indexOperand i) = none) (s : State) :
    exec (.reqRead i) s = .next (respond .errRange 0x0000 s) := by
  simp only [exec, execReqRead, h]

theorem decode_reqReadWord (i : Byte) : decode (commandWord 0x10 i) = .ok (.reqRead i) := by
  simp only [decode, opField_commandWord, argField_commandWord]
  rfl

theorem command_reqReadWord (i : Byte) (s : State) : command (commandWord 0x10 i) s = exec (.reqRead i) s :=
  command_of_decode_eq_ok (decode_reqReadWord i) s

/-- Settles O22: the statement's table is the ROM zero-extended, so its entry at the index is the ROM's (one case where
there is a byte, one where there is none), and the word runs the command. -/
theorem reqReadAnswersTheRom : Obligations.ReqReadAnswersTheRom := by
  unfold Obligations.ReqReadAnswersTheRom
  intro rom after
  have hrom : rom = reqRom.map zext16 := by decide
  have hexec : ∀ (i : Byte) (s : State), exec (.reqRead i) s = .next (after i s) := by
    intro i s
    simp only [after, hrom, List.getElem?_map, ← romByte_indexOperand]
    cases h : romByte (indexOperand i) with
    | none => exact exec_reqRead_of_romByte_eq_none h s
    | some b => exact exec_reqRead_of_romByte_eq_some h s
  exact ⟨hexec, fun i s => (command_reqReadWord i s).trans (hexec i s)⟩

/-! ## REQ_FRAME (R89, R130, R131) -/

/-- The host issues the first command of a list and goes on from the state it leaves. -/
theorem issue_cons {i : Instr} {s t : State} (h : command (encode i) s = .next t) (rest : List Instr) :
    issue (i :: rest) s = onNext (issue rest t) fun u => .next (u.1, t.response.toList ++ u.2) := by
  simp only [issue, h, onNext]

/-- Reading the ROM at in-range indices answers OK with its bytes, in the order of the indices. -/
theorem issue_map_reqRead {is bs : List Byte} (h : is.map (fun i => romByte (indexOperand i)) = bs.map some) (s : State) :
    issue (is.map .reqRead) s =
      .next (bs.foldl (fun t b => respond .ok (zext16 b) t) s, bs.map fun b => ⟨0x00, zext16 b⟩) := by
  induction is generalizing bs s with
  | nil => cases bs with
    | nil => rfl
    | cons b bs => simp at h
  | cons i is ih => cases bs with
    | nil => simp at h
    | cons b bs =>
      obtain ⟨hb, hbs⟩ := List.cons.inj h
      have hcmd : command (encode (.reqRead i)) s = .next (respond .ok (zext16 b) s) :=
        (command_reqReadWord i s).trans (exec_reqRead_of_romByte_eq_some hb s)
      rw [List.map_cons, issue_cons hcmd, ih hbs]
      rfl

/-- Settles O23: REQ_FRAME reads the ROM at the indices 0 to 7 (`issue_map_reqRead`), and the frame's fields are computed. -/
theorem requestFrameIsTheConstant : Obligations.RequestFrameIsTheConstant :=
  ⟨fun s => issue_map_reqRead (is := [0, 1, 2, 3, 4, 5, 6, 7]) (bs := reqRom) rfl s,
    by decide, by decide +kernel, by decide, by decide⟩

end Sys2Proof.Machine
end

section
/-! Proofs for the pure functions of the response (R150-R158): what the decode function answers for each list of bytes, in
terms of the frame they begin with, and that it undoes the response encoder. -/

namespace Sys2Proof.Machine

/-! ## The decode function (R155) -/

theorem decodeFrame_of_length_lt {bytes : List Byte} (h : bytes.length < 9) : decodeFrame bytes = .error .readShort := by
  simp [decodeFrame, (frameOfBytes_eq_none bytes).mpr h]

/-- A list that begins with a frame is judged by the frame's two CRC values alone (R152, R154). -/
theorem decodeFrame_of_some {bytes : List Byte} {F : RawFrame} (h : frameOfBytes bytes = some F) :
    decodeFrame bytes =
      if computedCrc F = transmittedCrc F then .ok (frameFields F) else .error .crcMismatch := by
  simp [decodeFrame, h, validate]

theorem nine_le_length_of_frameOfBytes_eq_some {bytes : List Byte} {F : RawFrame} (h : frameOfBytes bytes = some F) :
    9 ≤ bytes.length := by
  by_contra hlt
  rw [(frameOfBytes_eq_none bytes).mpr (Nat.lt_of_not_le hlt)] at h
  cases h

/-- Settles O28: the first nine bytes are the frame, whatever follows, and `decodeFrame_of_some` judges it. -/
theorem pureDecodeChecksLengthThenCrc : Obligations.PureDecodeChecksLengthThenCrc :=
  ⟨fun _ h => decodeFrame_of_length_lt h,
    fun f0 f1 f2 f3 f4 f5 f6 f7 f8 _ => decodeFrame_of_some (F := ⟨f0, f1, f2, f3, f4, f5, f6, f7, f8⟩) rfl⟩

/-! ## The value of a raw field (R156) and the response encoder (R158) -/

theorem sint16_eq_toInt (v : Word16) : sint16 v = v.toInt := by
  rw [sint16, BitVec.toInt_eq_msb_cond]
  rfl

theorem fieldValue_eq_tenths (r : Word16) : fieldValue r = (r.toInt : Rat) / 10 := by
  rw [fieldValue, sint16_eq_toInt]

/-- The payload of the response that carries these fields, in wire order (R64). -/
def responsePayload (a f n : Byte) (h t : Word16) : List Byte :=
  [a, f, n, highByte h, lowByte h, highByte t, lowByte t]

/-- The frame that `encodeResponse` lays out. -/
def responseFrame (a f n : Byte) (h t : Word16) : RawFrame where
  addr := a
  func := f
  bcnt := n
  humHi := highByte h
  humLo := lowByte h
  tempHi := highByte t
  tempLo := lowByte t
  crcFirst := lowByte (crc16 (responsePayload a f n h t))
  crcSecond := highByte (crc16 (responsePayload a f n h t))

theorem frameOfBytes_encodeResponse (a f n : Byte) (h t : Word16) :
    frameOfBytes (encodeResponse a f n h t) = some (responseFrame a f n h t) := rfl

theorem computedCrc_responseFrame (a f n : Byte) (h t : Word16) :
    computedCrc (responseFrame a f n h t) = crc16 (responsePayload a f n h t) := rfl

/-- The two CRC bytes, low byte first, read back as the CRC they were cut from. -/
theorem transmittedCrc_responseFrame (a f n : Byte) (h t : Word16) :
    transmittedCrc (responseFrame a f n h t) = crc16 (responsePayload a f n h t) := be16_bytes _

theorem frameFields_responseFrame (a f n : Byte) (h t : Word16) :
    frameFields (responseFrame a f n h t) = ⟨a, f, n, h, t⟩ := by
  simp only [frameFields, responseFrame, be16_bytes]

theorem decodeFrame_encodeResponse (a f n : Byte) (h t : Word16) :
    decodeFrame (encodeResponse a f n h t) = .ok ⟨a, f, n, h, t⟩ := by
  rw [decodeFrame_of_some (frameOfBytes_encodeResponse a f n h t), computedCrc_responseFrame,
    transmittedCrc_responseFrame, if_pos rfl, frameFields_responseFrame]

/-- Settles O30: the layout is the encoder's own, and the rest are `decodeFrame_encodeResponse` and
`fieldValue_eq_tenths`. -/
theorem responseRoundTrip : Obligations.ResponseRoundTrip :=
  fun a f n h t =>
    ⟨rfl, decodeFrame_encodeResponse a f n h t, fieldValue_eq_tenths h, fieldValue_eq_tenths t⟩

end Sys2Proof.Machine
end

section
/-! Proofs for the commands of the response (R160-R165). First what each of its words answers, then what any word does to
the receive buffer, from which RX_DECODE is held against the pure function. -/

namespace Sys2Proof.Machine

/-! ## RX_CLEAR (R160) -/

theorem exec_rxClear (s : State) : exec .rxClear s = .next (respond .ok 0x0000 (discardBuffer s)) := rfl

theorem decode_rxClearWord (arg : Byte) : decode (commandWord 0x20 arg) = noOperand 0x20 arg .rxClear := by
  simp only [decode, opField_commandWord, argField_commandWord]
  rfl

/-- Settles O24: the word is answered by `command_of_decode_eq_noOperand`. -/
theorem rxClearEmptiesTheBuffer : Obligations.RxClearEmptiesTheBuffer := by
  refine ⟨exec_rxClear, fun arg s => ?_⟩
  refine (command_of_decode_eq_noOperand (decode_rxClearWord arg) s).trans ?_
  split <;> rfl

/-! ## RX_PUSH (R161) -/

theorem exec_rxPush_of_length_lt (b : Byte) {s : State} (h : s.rxbuf.length < 9) :
    exec (.rxPush b) s = .next (respond .ok (countWord (s.rxcnt + 1)) (pushByte b s)) := if_pos h

theorem exec_rxPush_of_nine_le_length (b : Byte) {s : State} (h : 9 ≤ s.rxbuf.length) :
    exec (.rxPush b) s = .next (respond .errRxOverrun 0x0009 s) := if_neg (Nat.not_lt.mpr h)

theorem decode_rxPushWord (b : Byte) : decode (commandWord 0x21 b) = .ok (.rxPush b) := by
  simp only [decode, opField_commandWord, argField_commandWord]
  rfl

/-- A push reaches no slot but the one at the old count. -/
theorem rxSlot_of_exec_rxPush {b : Byte} {s t : State} (h : exec (.rxPush b) s = .next t) {i : Nat} (hi : i ≠ s.rxcnt) :
    rxSlot t i = rxSlot s i := by
  rcases Nat.lt_or_ge s.rxbuf.length 9 with hlen | hlen
  · cases (exec_rxPush_of_length_lt b hlen).symm.trans h
    exact (rxSlot_pushByte b s i).trans (if_neg hi)
  · cases (exec_rxPush_of_nine_le_length b hlen).symm.trans h
    rfl

/-- Settles O25: one lemma for a buffer with room and one for a full buffer, and `rxSlot_of_exec_rxPush` for the slots. -/
theorem rxPushAppendsOrOverruns : Obligations.RxPushAppendsOrOverruns :=
  ⟨fun b _ h => exec_rxPush_of_length_lt b h, fun b _ h => exec_rxPush_of_nine_le_length b h,
    fun b s => command_of_decode_eq_ok (decode_rxPushWord b) s, fun _ _ _ h _ hi => rxSlot_of_exec_rxPush h hi⟩

/-! ## RX_DECODE (R163, R164) -/

theorem exec_rxDecode_of_length_lt {s : State} (h : s.rxbuf.length < 9) :
    exec .rxDecode s = .next (rejectFrame .errReadShort (countWord s.rxcnt) s) := by
  have hnone := (frameOfBytes_eq_none s.rxbuf).mpr h
  simp only [exec, execRxDecode, decodeFrame_of_length_lt h, latchCrcs_of_none hnone]

/-- With nine bytes the two CRC values are latched, and their comparison decides. -/
theorem exec_rxDecode_of_some {s : State} {F : RawFrame} (h : frameOfBytes s.rxbuf = some F) :
    exec .rxDecode s =
      let latched := { s with rxCrc := transmittedCrc F, calcCrc := computedCrc F }
      if computedCrc F = transmittedCrc F then .next (acceptFrame (frameFields F) (computedCrc F) latched)
      else .next (rejectFrame .errCrcMismatch (computedCrc F) latched) := by
  simp only [exec, execRxDecode, decodeFrame_of_some h, latchCrcs_of_some h]
  by_cases hcrc : computedCrc F = transmittedCrc F
  · simp only [if_pos hcrc]
  · simp only [if_neg hcrc]

theorem decode_rxDecodeWord (arg : Byte) : decode (commandWord 0x22 arg) = noOperand 0x22 arg .rxDecode := by
  simp only [decode, opField_commandWord, argField_commandWord]
  rfl

/-- Settles O26: short buffers by `exec_rxDecode_of_length_lt`, nine bytes by `exec_rxDecode_of_some`, and the word by
`command_of_decode_eq_noOperand`. -/
theorem rxDecodeValidatesAndDecodes : Obligations.RxDecodeValidatesAndDecodes := by
  refine ⟨fun s => exec_rxDecode_of_length_lt, fun s f0 f1 f2 f3 f4 f5 f6 f7 f8 => ?_, fun arg s => ?_⟩
  · intro full computed rx
    have hfull := exec_rxDecode_of_some (s := full) (F := ⟨f0, f1, f2, f3, f4, f5, f6, f7, f8⟩) rfl
    exact ⟨fun hne => hfull.trans (if_neg hne), fun heq => hfull.trans (if_pos heq)⟩
  · have hword := command_of_decode_eq_noOperand (decode_rxDecodeWord arg) s
    exact ⟨fun harg => hword.trans (if_pos harg), fun harg => hword.trans (if_neg harg)⟩

/-- Settles O27, from the three outcomes of `execRxDecode_cases`: the first is the one with fewer than 9 bytes, and the
last the only one that answers OK. -/
theorem decodeChecksInOrder : Obligations.DecodeChecksInOrder := by
  intro s t h
  rcases execRxDecode_cases s with ⟨hnone, h'⟩ | ⟨F, hsome, _, h'⟩ | ⟨F, hsome, _, h'⟩ <;> cases h'.symm.trans h
  · have hshort := (frameOfBytes_eq_none s.rxbuf).mp hnone
    exact ⟨fun _ => ⟨rfl, rfl, rfl⟩, fun hlen => absurd hshort (Nat.not_lt.mpr hlen),
      fun _ => ⟨rfl, rfl, rfl, rfl, rfl, rfl⟩⟩
  · have hlen := nine_le_length_of_frameOfBytes_eq_some hsome
    have hstatus : statusCode .errCrcMismatch ≠ 0x10 := by decide
    rw [latchCrcs_of_some hsome]
    exact ⟨fun hshort => absurd hlen (Nat.not_le.mpr hshort), fun _ => hstatus,
      fun _ => ⟨rfl, rfl, rfl, rfl, rfl, rfl⟩⟩
  · have hlen := nine_le_length_of_frameOfBytes_eq_some hsome
    have hstatus : statusCode .ok ≠ 0x10 := by decide
    exact ⟨fun hshort => absurd hlen (Nat.not_le.mpr hshort), fun _ => hstatus, fun hne => absurd rfl hne⟩

/-! ## The buffer under a program (R162, R165) -/

theorem runWords_append {ws : List Word16} {s t : State} (vs : List Word16) (h : runWords ws s = .next t) :
    runWords (ws ++ vs) s = runWords vs t := by
  induction ws generalizing s with
  | nil => cases h; rfl
  | cons w ws ih =>
    obtain ⟨st, d, u, hu⟩ := command_eq_respond w s
    exact (runWords_cons (ws ++ vs) hu).trans (ih ((runWords_cons ws hu).symm.trans h))

/-- A one-word program is its command, with nothing left to present. -/
theorem runWords_singleton {w : Word16} {s t : State} (h : command w s = .next t) :
    runWords [w] s = .next { t with inputs := [] } := runWords_cons [] h

/-- Only RX_CLEAR, RX_PUSH and RX_DECODE move the buffer (R34). -/
theorem exec_rxbuf_of_ne {i : Instr} {s t : State} (hclear : i ≠ .rxClear) (hpush : ∀ b, i ≠ .rxPush b)
    (hdecode : i ≠ .rxDecode) (h : exec i s = .next t) : t.rxbuf = s.rxbuf := by
  cases i with
  | rxClear => exact absurd rfl hclear
  | rxPush b => exact absurd rfl (hpush b)
  | rxDecode => exact absurd rfl hdecode
  | reqRead k => simp only [exec, execReqRead] at h; split at h <;> cases h <;> rfl
  | rdReg r => simp only [exec, execRdReg] at h; split at h <;> cases h <;> rfl
  | nop => cases h; rfl
  | crcInit => cases h; rfl
  | crcByte b => cases h; rfl
  | crcRead => cases h; rfl

/-- A push keeps the first 9 bytes of the buffer with its byte at the end, whether there is room for it or not. -/
theorem exec_rxPush_rxbuf {b : Byte} {s t : State} (hwf : RxBuf.wf s.rxbuf) (h : exec (.rxPush b) s = .next t) :
    t.rxbuf = (s.rxbuf ++ [b]).take frameLength := by
  rcases Nat.lt_or_ge s.rxbuf.length 9 with hlen | hlen
  · cases (exec_rxPush_of_length_lt b hlen).symm.trans h
    exact (List.take_of_length_le (by simpa using hlen)).symm
  · cases (exec_rxPush_of_nine_le_length b hlen).symm.trans h
    exact (List.take_left' (Nat.le_antisymm hwf hlen)).symm

theorem pushedBytes_cons (w : Word16) (ws : List Word16) : pushedBytes (w :: ws) = pushedBytes [w] ++ pushedBytes ws := by
  simp only [pushedBytes]
  split <;> rfl

/-- Every word but RX_CLEAR and RX_DECODE appends what it pushes, truncated to the first 9 bytes. -/
theorem command_rxbuf {w : Word16} {s t : State} (hclear : decode w ≠ .ok .rxClear) (hdecode : decode w ≠ .ok .rxDecode)
    (hwf : RxBuf.wf s.rxbuf) (h : command w s = .next t) :
    t.rxbuf = (s.rxbuf ++ pushedBytes [w]).take frameLength := by
  have hkept : s.rxbuf = (s.rxbuf ++ []).take frameLength := by
    rw [List.append_nil, List.take_of_length_le hwf]
  simp only [pushedBytes]
  rcases command_cases h with ⟨i, hd, he⟩ | ⟨e, hd, rfl⟩
  · rw [hd] at hclear hdecode ⊢
    split
    · next b hi => cases hi; exact exec_rxPush_rxbuf hwf he
    · next hpush =>
      have hsame := exec_rxbuf_of_ne (fun hi => hclear (congrArg _ hi)) (fun b hi => hpush b (congrArg _ hi))
        (fun hi => hdecode (congrArg _ hi)) he
      exact hsame.trans hkept
  · rw [hd]
    exact hkept

/-- What a first truncation cuts off, a second one would not have kept. -/
theorem take_append_take {α : Type} (n : Nat) (l m : List α) : (l.take n ++ m).take n = (l ++ m).take n := by
  rcases Nat.le_total l.length n with h | h
  · rw [List.take_of_length_le h]
  · simp [List.take_append, h]

/-- A program without RX_CLEAR and RX_DECODE leaves the first 9 of the bytes it started with and those it pushed. -/
theorem runWords_rxbuf (ws : List Word16) (s : State)
    (hws : ∀ w ∈ ws, decode w ≠ .ok .rxClear ∧ decode w ≠ .ok .rxDecode) (hwf : RxBuf.wf s.rxbuf) :
    ∃ t, runWords ws s = .next t ∧ t.rxbuf = (s.rxbuf ++ pushedBytes ws).take frameLength := by
  induction ws generalizing s with
  | nil => exact ⟨_, rfl, by simp [pushedBytes, hwf]⟩
  | cons w ws ih =>
    obtain ⟨⟨hclear, hdecode⟩, hrest⟩ := List.forall_mem_cons.mp hws
    obtain ⟨st, d, u, hu⟩ := command_eq_respond w s
    have hbuf := command_rxbuf hclear hdecode hwf hu
    obtain ⟨t, ht, htbuf⟩ := ih (respond st d u) hrest (hbuf ▸ List.length_take_le _ _)
    refine ⟨t, (runWords_cons ws hu).trans ht, ?_⟩
    rw [htbuf, hbuf, take_append_take, List.append_assoc, ← pushedBytes_cons]

/-- Settles O32: the words before RX_DECODE leave the truncated list in the buffer (`runWords_rxbuf`), and RX_DECODE
answers as the pure function does on it, in each of that function's three cases. -/
theorem decodeAgreesWithThePureFunction : Obligations.DecodeAgreesWithThePureFunction := by
  intro ws s hws
  obtain ⟨t, ht, hbuf⟩ := runWords_rxbuf ws { s with rxbuf := [] } hws (Nat.zero_le _)
  have hrun : ∀ u, exec .rxDecode t = .next u →
      runWords (ws ++ [0x2200]) { s with rxbuf := [] } = .next { u with inputs := [] } :=
    fun u hu => (runWords_append [0x2200] ht).trans (runWords_singleton hu)
  have hpushed : (pushedBytes ws).take 9 = t.rxbuf := hbuf.symm
  rw [hpushed]
  rcases execRxDecode_cases t with ⟨hnone, hu⟩ | ⟨F, hsome, hv, hu⟩ | ⟨F, hsome, hv, hu⟩ <;>
    refine ⟨_, hrun _ hu, rfl, ?_⟩
  · rw [decodeFrame_of_length_lt ((frameOfBytes_eq_none _).mp hnone)]
    exact ⟨rfl, rfl⟩
  · rw [decodeFrame_of_some hsome, if_neg (mt (validate_iff F).mpr (Bool.eq_false_iff.mp hv))]
    exact ⟨rfl, rfl⟩
  · rw [decodeFrame_of_some hsome, if_pos ((validate_iff F).mp hv)]
    exact ⟨rfl, rfl, rfl, rfl, rfl, rfl, rfl⟩

end Sys2Proof.Machine
end

section
/-! Proofs for control and register access (R190, R191). NOP is answered like the other commands without operand. For
RD_REG the map has 13 registers of its own and, from 0x0D on, only buffer slots: the proof splits there. -/

namespace Sys2Proof.Machine

/-! ## RD_REG (R191) -/

theorem exec_rdReg_of_readReg_eq_some {r : Byte} {s : State} {v : Word16} (h : readReg s (indexOperand r) = some v) :
    exec (.rdReg r) s = .next (respond .ok v s) := by
  simp only [exec, execRdReg, h]

theorem exec_rdReg_of_readReg_eq_none {r : Byte} {s : State} (h : readReg s (indexOperand r) = none) :
    exec (.rdReg r) s = .next (respond .errRange 0x0000 s) := by
  simp only [exec, execRdReg, h]

theorem decode_rdRegWord (r : Byte) : decode (commandWord 0x30 r) = .ok (.rdReg r) := by
  simp only [decode, opField_commandWord, argField_commandWord]
  rfl

/-- From 0x0D on the map holds nothing but the nine buffer slots (R32). -/
theorem readReg_indexOperand_of_ge {r : Byte} (hr : 0x0D ≤ r.toNat) (s : State) :
    readReg s (indexOperand r) =
      if 0x10 ≤ r.toNat ∧ r.toNat ≤ 0x18 then (rxSlot s (r.toNat - 0x10)).map zext16 else none := by
  unfold readReg
  rw [indexOperand_toNat]
  split
  case h_14 => rfl
  all_goals omega

theorem eq_registerNumber_of_lt {r : Byte} (hr : r.toNat < 0x0D) :
    r = 0x00 ∨ r = 0x01 ∨ r = 0x02 ∨ r = 0x03 ∨ r = 0x04 ∨ r = 0x05 ∨ r = 0x06 ∨ r = 0x07 ∨ r = 0x08 ∨ r = 0x09 ∨
      r = 0x0A ∨ r = 0x0B ∨ r = 0x0C := by
  bv_omega

/-- Settles O37: below 0x0D the number is one of 13 and its answer is computed; from there on no line of the statement's
map but the slots' is left, and the slot is filled or not (`readReg_indexOperand_of_ge`). -/
theorem rdRegReadsTheRegisterMap : Obligations.RdRegReadsTheRegisterMap := by
  intro r s answer range
  refine ⟨command_of_decode_eq_ok (decode_rdRegWord r) s, ?_⟩
  rcases Nat.lt_or_ge r.toNat 0x0D with hr | hr
  · rcases eq_registerNumber_of_lt hr with rfl | rfl | rfl | rfl | rfl | rfl | rfl | rfl | rfl | rfl | rfl | rfl | rfl <;>
      rfl
  · have hne : ∀ k : Byte, k.toNat < 0x0D → r ≠ k := fun k hk hrk => absurd (hrk ▸ hr) (Nat.not_le.mpr hk)
    have hread := readReg_indexOperand_of_ge hr s
    simp (disch := decide) only [hne, if_false]
    by_cases hslot : 0x10 ≤ r.toNat ∧ r.toNat ≤ 0x18
    · rw [if_pos hslot, rxSlot] at hread
      rw [if_pos hslot]
      cases hb : s.rxbuf[r.toNat - 0x10]? with
      | some b => exact exec_rdReg_of_readReg_eq_some (by rw [hread, hb]; rfl)
      | none => exact exec_rdReg_of_readReg_eq_none (by rw [hread, hb]; rfl)
    · rw [if_neg hslot] at hread ⊢
      exact exec_rdReg_of_readReg_eq_none hread

/-! ## NOP (R190) -/

theorem exec_nop (s : State) : exec .nop s = .next (respond .ok 0x0000 s) := rfl

theorem decode_nopWord (arg : Byte) : decode (commandWord 0x00 arg) = noOperand 0x00 arg .nop := by
  simp only [decode, opField_commandWord, argField_commandWord]
  rfl

/-- Settles O36: the word is answered by `command_of_decode_eq_noOperand`. -/
theorem nopOnlyAnswersOk : Obligations.NopOnlyAnswersOk := by
  refine ⟨exec_nop, fun arg s => ?_⟩
  refine (command_of_decode_eq_noOperand (decode_nopWord arg) s).trans ?_
  split <;> rfl

end Sys2Proof.Machine
end

section
/-! Proofs for the status codes (R210, R214). `Raises` is the "raised by" column of R210 and `errorDout` its DOUT column; no
two rows apply to one word, and what a word answers is then read off them command by command. -/

namespace Sys2Proof.Machine

/-! ## The rows of R210 -/

/-- The rows of R210 for the errors: which of them a word raises on `s`, by what the decoder makes of the word. -/
inductive Raises (s : State) : Except IllegalWord Instr → Status → Prop where
  | illegalWord (e : IllegalWord) : Raises s (.error e) .errIllegal
  | romIndex {i : Byte} (h : 8 ≤ i.toNat) : Raises s (.ok (.reqRead i)) .errRange
  | registerNumber {r : Byte} (h : readReg s (indexOperand r) = none) : Raises s (.ok (.rdReg r)) .errRange
  | fullBuffer (b : Byte) (h : 9 ≤ s.rxbuf.length) : Raises s (.ok (.rxPush b)) .errRxOverrun
  | shortFrame (h : s.rxbuf.length < 9) : Raises s (.ok .rxDecode) .errReadShort
  | crcMismatch (h : decodeFrame s.rxbuf = .error .crcMismatch) : Raises s (.ok .rxDecode) .errCrcMismatch

/-- The DOUT column of R210 for the errors; OK has none of its own. -/
def errorDout (s : State) : Status → Word16
  | .ok | .errIllegal | .errRange => 0x0000
  | .errRxOverrun => 0x0009
  | .errReadShort => BitVec.ofNat 16 s.rxbuf.length
  | .errCrcMismatch => crc16 (s.rxbuf.take 7)

section Rows

variable {s : State} {c : Except IllegalWord Instr}

/-- R214: of the two RX_DECODE rows the length check excludes the CRC check, and no other two rows share a command. -/
theorem Raises.unique {st st' : Status} (h : Raises s c st) (h' : Raises s c st') : st = st' := by
  cases h with
  | shortFrame hlen =>
    cases h' with
    | shortFrame => rfl
    | crcMismatch hcrc => cases (decodeFrame_of_length_lt hlen).symm.trans hcrc
  | crcMismatch hcrc =>
    cases h' with
    | shortFrame hlen => cases (decodeFrame_of_length_lt hlen).symm.trans hcrc
    | crcMismatch => rfl
  | illegalWord | romIndex | registerNumber | fullBuffer => cases h'; rfl

theorem raises_errIllegal_iff : Raises s c .errIllegal ↔ ∃ e, c = .error e :=
  ⟨fun | .illegalWord e => ⟨e, rfl⟩, fun ⟨e, hc⟩ => hc ▸ .illegalWord e⟩

/-- A number reads nothing when it is unmapped or names an unfilled slot (R191): below 0x0D every number is mapped. -/
theorem readReg_indexOperand_eq_none_iff (r : Byte) :
    readReg s (indexOperand r) = none ↔
      0x0D ≤ r.toNat ∧ ¬ (0x10 ≤ r.toNat ∧ r.toNat ≤ 0x18 ∧ r.toNat - 0x10 < s.rxbuf.length) := by
  rcases Nat.lt_or_ge r.toNat 0x0D with hr | hr
  · refine iff_of_false ?_ fun ⟨hge, _⟩ => absurd hge (Nat.not_le.mpr hr)
    rcases eq_registerNumber_of_lt hr with rfl | rfl | rfl | rfl | rfl | rfl | rfl | rfl | rfl | rfl | rfl | rfl | rfl <;>
      exact Option.some_ne_none _
  · rw [readReg_indexOperand_of_ge hr, and_iff_right hr, ← and_assoc]
    by_cases hslot : 0x10 ≤ r.toNat ∧ r.toNat ≤ 0x18
    · simp [hslot, rxSlot]
    · simp [hslot]

theorem raises_errRange_iff :
    Raises s c .errRange ↔ (∃ i : Byte, c = .ok (.reqRead i) ∧ 8 ≤ i.toNat) ∨
      (∃ r : Byte, c = .ok (.rdReg r) ∧ 0x0D ≤ r.toNat ∧
        ¬ (0x10 ≤ r.toNat ∧ r.toNat ≤ 0x18 ∧ r.toNat - 0x10 < s.rxbuf.length)) := by
  simp only [← readReg_indexOperand_eq_none_iff]
  constructor
  · rintro (_ | h | h)
    · exact .inl ⟨_, rfl, h⟩
    · exact .inr ⟨_, rfl, h⟩
  · rintro (⟨i, rfl, h⟩ | ⟨r, rfl, h⟩)
    · exact .romIndex h
    · exact .registerNumber h

theorem raises_errRxOverrun_iff :
    Raises s c .errRxOverrun ↔ (∃ b, c = .ok (.rxPush b)) ∧ 9 ≤ s.rxbuf.length :=
  ⟨fun | .fullBuffer b h => ⟨⟨b, rfl⟩, h⟩, fun ⟨⟨b, hc⟩, h⟩ => hc ▸ .fullBuffer b h⟩

theorem raises_errReadShort_iff : Raises s c .errReadShort ↔ c = .ok .rxDecode ∧ s.rxbuf.length < 9 :=
  ⟨fun | .shortFrame h => ⟨rfl, h⟩, fun ⟨hc, h⟩ => hc ▸ .shortFrame h⟩

theorem raises_errCrcMismatch_iff :
    Raises s c .errCrcMismatch ↔ c = .ok .rxDecode ∧ decodeFrame s.rxbuf = .error .crcMismatch :=
  ⟨fun | .crcMismatch h => ⟨rfl, h⟩, fun ⟨hc, h⟩ => hc ▸ .crcMismatch h⟩

end Rows

/-! ## What a word answers -/

/-- The outcome is the answer R210 gives: the error of the row that applies, with its DOUT, or OK where none does. -/
def AnswersByRow (s : State) (c : Except IllegalWord Instr) (o : Host.Outcome State Fault Refusal) : Prop :=
  (∃ st u, Raises s c st ∧ o = .next (respond st (errorDout s st) u)) ∨
  ((∀ st, ¬ Raises s c st) ∧ ∃ d u, o = .next (respond .ok d u))

theorem exec_reqRead_answersByRow (i : Byte) (s : State) : AnswersByRow s (.ok (.reqRead i)) (exec (.reqRead i) s) := by
  have hrange := romByte_isSome (indexOperand i)
  rw [indexOperand_toNat] at hrange
  cases hb : romByte (indexOperand i) with
  | none =>
    have hi : 8 ≤ i.toNat := by simpa [hb] using hrange
    exact .inl ⟨_, _, .romIndex hi, exec_reqRead_of_romByte_eq_none hb s⟩
  | some b =>
    have hi : i.toNat < 8 := by simpa [hb] using hrange
    exact .inr ⟨fun | _, .romIndex h => absurd hi (Nat.not_lt.mpr h), _, _, exec_reqRead_of_romByte_eq_some hb s⟩

theorem exec_rdReg_answersByRow (r : Byte) (s : State) : AnswersByRow s (.ok (.rdReg r)) (exec (.rdReg r) s) := by
  cases hv : readReg s (indexOperand r) with
  | none => exact .inl ⟨_, _, .registerNumber hv, exec_rdReg_of_readReg_eq_none hv⟩
  | some v =>
    exact .inr ⟨fun | _, .registerNumber h => Option.some_ne_none v (hv.symm.trans h), _, _,
      exec_rdReg_of_readReg_eq_some hv⟩

theorem exec_rxPush_answersByRow (b : Byte) (s : State) : AnswersByRow s (.ok (.rxPush b)) (exec (.rxPush b) s) := by
  rcases Nat.lt_or_ge s.rxbuf.length 9 with hlen | hlen
  · exact .inr ⟨fun | _, .fullBuffer _ h => absurd hlen (Nat.not_lt.mpr h), _, _, exec_rxPush_of_length_lt b hlen⟩
  · exact .inl ⟨_, _, .fullBuffer b hlen, exec_rxPush_of_nine_le_length b hlen⟩

/-- The computed CRC is over the first seven bytes held (R152). -/
theorem computedCrc_of_frameOfBytes_eq_some {bytes : List Byte} {F : RawFrame} (h : frameOfBytes bytes = some F) :
    computedCrc F = crc16 (bytes.take 7) := by
  have htake : payload F = (bytes.take 9).take 7 := by rw [← frameBytes_of_frameOfBytes h]; rfl
  rw [computedCrc, htake, List.take_take]
  rfl

theorem exec_rxDecode_answersByRow (s : State) : AnswersByRow s (.ok .rxDecode) (exec .rxDecode s) := by
  cases hF : frameOfBytes s.rxbuf with
  | none =>
    have hlen := (frameOfBytes_eq_none s.rxbuf).mp hF
    exact .inl ⟨_, _, .shortFrame hlen, exec_rxDecode_of_length_lt hlen⟩
  | some F =>
    by_cases hcrc : computedCrc F = transmittedCrc F
    · have hdecode := (decodeFrame_of_some hF).trans (if_pos hcrc)
      have hnone : ∀ st, ¬ Raises s (.ok .rxDecode) st
        | _, .shortFrame hlen => absurd (nine_le_length_of_frameOfBytes_eq_some hF) (Nat.not_le.mpr hlen)
        | _, .crcMismatch hmismatch => nomatch hdecode.symm.trans hmismatch
      exact .inr ⟨hnone, _, _, (exec_rxDecode_of_some hF).trans (if_pos hcrc)⟩
    · have hdecode := (decodeFrame_of_some hF).trans (if_neg hcrc)
      have hexec := (exec_rxDecode_of_some hF).trans (if_neg hcrc)
      rw [computedCrc_of_frameOfBytes_eq_some hF] at hexec
      exact .inl ⟨_, _, .crcMismatch hdecode, hexec⟩

theorem command_answersByRow (w : Word16) (s : State) : AnswersByRow s (decode w) (command w s) := by
  cases hw : decode w with
  | error e => exact .inl ⟨_, _, .illegalWord e, command_of_decode_eq_error hw s⟩
  | ok i =>
    rw [command_of_decode_eq_ok hw]
    cases i with
    | reqRead i => exact exec_reqRead_answersByRow i s
    | rdReg r => exact exec_rdReg_answersByRow r s
    | rxPush b => exact exec_rxPush_answersByRow b s
    | rxDecode => exact exec_rxDecode_answersByRow s
    | nop => exact .inr ⟨nofun, _, _, exec_nop s⟩
    | crcInit => exact .inr ⟨nofun, _, _, exec_crcInit s⟩
    | crcByte b => exact .inr ⟨nofun, _, _, exec_crcByte b s⟩
    | crcRead => exact .inr ⟨nofun, _, _, exec_crcRead s⟩
    | rxClear => exact .inr ⟨nofun, _, _, exec_rxClear s⟩

/-! ## The codes -/

theorem statusCode_injective : Function.Injective statusCode := by
  intro a b
  cases a <;> cases b <;> decide

theorem isStatusCode_statusCode (st : Status) : IsStatusCode (statusCode st) := by
  cases st <;> decide

/-- One status per word (R214): an error's code stands in STATUS exactly when its row applies, and its DOUT with it. -/
theorem command_status (w : Word16) (s : State) :
    ∃ st d u, command w s = .next (respond st d u) ∧
      (∀ e ≠ .ok, statusCode st = statusCode e ↔ Raises s (decode w) e) ∧
      (∀ e ≠ .ok, statusCode st = statusCode e → d = errorDout s e) := by
  simp only [statusCode_injective.eq_iff]
  rcases command_answersByRow w s with ⟨st, u, hraise, h⟩ | ⟨hnone, d, u, h⟩
  · exact ⟨st, _, u, h, fun e _ => ⟨fun heq => heq ▸ hraise, hraise.unique⟩, fun e _ heq => heq ▸ rfl⟩
  · exact ⟨.ok, d, u, h, fun e he => iff_of_false he.symm (hnone e), fun e he heq => absurd heq.symm he⟩

/-- Settles O39: `command_status` gives each code its row, and the rows are the statement's conditions (`raises_…_iff`). -/
theorem statusCodesAreRaisedAsStated : Obligations.StatusCodesAreRaisedAsStated := by
  intro w s
  obtain ⟨st, d, u, hanswer, hraised, hdout⟩ := command_status w s
  refine ⟨respond st d u, d, hanswer, rfl, isStatusCode_statusCode st,
    (hraised .errIllegal nofun).trans raises_errIllegal_iff, (hraised .errRange nofun).trans raises_errRange_iff,
    (hraised .errRxOverrun nofun).trans raises_errRxOverrun_iff,
    (hraised .errReadShort nofun).trans raises_errReadShort_iff,
    (hraised .errCrcMismatch nofun).trans raises_errCrcMismatch_iff, ?_, hdout .errRxOverrun nofun,
    hdout .errReadShort nofun, hdout .errCrcMismatch nofun⟩
  rintro (h | h)
  · exact hdout .errIllegal nofun h
  · exact hdout .errRange nofun h

end Sys2Proof.Machine
end

section
/-! Proofs for reset (R260). An empty buffer has no slot to read, and what REQ_READ answers is the ROM's alone. -/

namespace Sys2Proof.Machine

/-- With nothing in the buffer each of the nine slots is unfilled (R34, R191). -/
theorem exec_rdReg_slot_of_rxbuf_eq_nil {s : State} (h : s.rxbuf = []) (k : Fin 9) :
    exec (.rdReg (BitVec.ofNat 8 (0x10 + k.val))) s = .next (respond .errRange 0x0000 s) := by
  have hnumber : (BitVec.ofNat 8 (0x10 + k.val)).toNat = 0x10 + k.val := Nat.mod_eq_of_lt (by omega)
  refine exec_rdReg_of_readReg_eq_none ((readReg_indexOperand_eq_none_iff _).mpr ?_)
  rw [hnumber, h]
  exact ⟨by omega, fun ⟨_, _, hfilled⟩ => Nat.not_lt_zero _ hfilled⟩

/-- The ROM is constant (R41), so status and DOUT depend on the index alone. -/
theorem exec_reqRead_eq_respond (i : Byte) : ∃ st d, ∀ s, exec (.reqRead i) s = .next (respond st d s) := by
  cases hb : romByte (indexOperand i) with
  | none => exact ⟨_, _, exec_reqRead_of_romByte_eq_none hb⟩
  | some b => exact ⟨_, _, exec_reqRead_of_romByte_eq_some hb⟩

theorem exec_reqRead_response_eq {i : Byte} {s s' t t' : State} (h : exec (.reqRead i) s = .next t)
    (h' : exec (.reqRead i) s' = .next t') : t.response = t'.response := by
  obtain ⟨st, d, hexec⟩ := exec_reqRead_eq_respond i
  cases (hexec s).symm.trans h
  cases (hexec s').symm.trans h'
  rfl

/-- Settles O10: the registers' values are those of `State.reset` itself, its buffer is empty, and the ROM answers by the
index alone. -/
theorem resetLeavesTheStatedValues : Obligations.ResetLeavesTheStatedValues :=
  ⟨⟨rfl, rfl, rfl, rfl, rfl, rfl, rfl, rfl, rfl, rfl, rfl, rfl, rfl⟩, exec_rdReg_slot_of_rxbuf_eq_nil rfl,
    fun _ _ _ _ => exec_reqRead_response_eq⟩

end Sys2Proof.Machine
end

section
/-! Proofs for the encoding (R80-R84, R86). `decode` undoes `encode` constructor by constructor, and a word that decodes is
the encoding of its command; the rows of the table then follow from those of the encodings (`tableRowOf`). -/

namespace Sys2Proof

open Sys2Proof.Machine

/-! ## Decoding and encoding -/

theorem decode_encode (i : Instr) : decode (encode i) = .ok i := by
  cases i with
  | nop => exact decode_nopWord 0x00
  | crcInit => exact decode_crcInitWord 0x00
  | crcByte b => exact decode_crcByteWord b
  | crcRead => exact decode_crcReadWord 0x00
  | reqRead i => exact decode_reqReadWord i
  | rxClear => exact decode_rxClearWord 0x00
  | rxPush b => exact decode_rxPushWord b
  | rxDecode => exact decode_rxDecodeWord 0x00
  | rdReg r => exact decode_rdRegWord r

/-- A command has one word only: the decoder reads every bit of it. -/
theorem encode_of_decode_eq_ok {w : Word16} {i : Instr} (h : decode w = .ok i) : encode i = w := by
  obtain ⟨op, arg, rfl⟩ : ∃ op arg, w = commandWord op arg := ⟨_, _, (commandWord_fields w).symm⟩
  simp only [decode, opField_commandWord, argField_commandWord] at h
  split at h
  case h_1 | h_2 | h_4 | h_6 | h_8 => obtain ⟨rfl, rfl⟩ := noOperand_eq_ok.mp h; rfl
  case h_10 => cases h
  all_goals cases h; rfl

/-! ## The rows of the table -/

/-- The encoding of every command selects its own row and no other. -/
theorem tableRowOf : ∀ i : Instr, Laws.TableRowOf.Statement i
  | .nop => Laws.TableRowOf.nop
  | .crcInit => Laws.TableRowOf.crcInit
  | .crcByte b => Laws.TableRowOf.crcByte b
  | .crcRead => Laws.TableRowOf.crcRead
  | .reqRead i => Laws.TableRowOf.reqRead i
  | .rxClear => Laws.TableRowOf.rxClear
  | .rxPush b => Laws.TableRowOf.rxPush b
  | .rxDecode => Laws.TableRowOf.rxDecode
  | .rdReg r => Laws.TableRowOf.rdReg r

theorem row_mem_and_selectedBy_encode (i : Instr) : i.row ∈ opcodeTable ∧ i.row.selectedBy (encode i) = true := by
  have hmem : i.row ∈ opcodeTable.filter fun row => row.selectedBy (encode i) := by
    rw [tableRowOf i]
    exact List.mem_singleton_self _
  exact List.mem_filter.mp hmem

theorem isCommandWord_encode (i : Instr) : isCommandWord (encode i) = true :=
  List.any_eq_true.mpr ⟨i.row, row_mem_and_selectedBy_encode i⟩

/-- Settles O1: `decode_encode`, constructor by constructor, and `isCommandWord_encode` from the rows. -/
theorem decodeEncodeRoundTrip : Obligations.DecodeEncodeRoundTrip :=
  fun i => ⟨decode_encode i, isCommandWord_encode i⟩

/-- A row that fixes the whole word is selected by its own pattern only. -/
theorem eq_of_selectedBy_fullMask {p w : Word16} (h : (TableRow.mk p 0xFFFF).selectedBy w = true) : p = w := by
  have hmask : w &&& 0xFFFF#16 = w := BitVec.and_allOnes
  exact (eq_of_beq h).symm.trans hmask

/-- A row that fixes `OP` is selected by the words with that `OP` only. -/
theorem eq_of_selectedBy_opMask {op : Byte} {w : Word16}
    (h : (TableRow.mk (commandWord op 0x00) 0xFF00).selectedBy w = true) : commandWord op (argField w) = w := by
  have hmask : opField (w &&& 0xFF00#16) = opField w := BitVec.extractLsb'_and.trans BitVec.and_allOnes
  have hop : opField w = op :=
    calc opField w = opField (w &&& 0xFF00#16) := hmask.symm
      _ = opField (commandWord op 0x00) := congrArg opField (eq_of_beq h)
      _ = op := opField_commandWord op 0x00
  rw [← hop, commandWord_fields]

/-- A word that selects a row is the encoding of one of the row's commands. -/
theorem exists_encode_eq_of_isCommandWord {w : Word16} (h : isCommandWord w = true) : ∃ i, encode i = w := by
  obtain ⟨row, hrow, hsel⟩ := List.any_eq_true.mp h
  simp only [opcodeTable, List.mem_cons, List.not_mem_nil, or_false] at hrow
  rcases hrow with rfl | rfl | rfl | rfl | rfl | rfl | rfl | rfl | rfl
  · exact ⟨.nop, eq_of_selectedBy_fullMask hsel⟩
  · exact ⟨.crcInit, eq_of_selectedBy_fullMask hsel⟩
  · exact ⟨.crcByte (argField w), eq_of_selectedBy_opMask (op := 0x02) hsel⟩
  · exact ⟨.crcRead, eq_of_selectedBy_fullMask hsel⟩
  · exact ⟨.reqRead (argField w), eq_of_selectedBy_opMask (op := 0x10) hsel⟩
  · exact ⟨.rxClear, eq_of_selectedBy_fullMask hsel⟩
  · exact ⟨.rxPush (argField w), eq_of_selectedBy_opMask (op := 0x21) hsel⟩
  · exact ⟨.rxDecode, eq_of_selectedBy_fullMask hsel⟩
  · exact ⟨.rdReg (argField w), eq_of_selectedBy_opMask (op := 0x30) hsel⟩

theorem exists_decode_eq_ok_iff (w : Word16) : (∃ i, decode w = .ok i) ↔ isCommandWord w = true := by
  constructor
  · rintro ⟨i, hi⟩
    exact encode_of_decode_eq_ok hi ▸ isCommandWord_encode i
  · intro h
    obtain ⟨i, rfl⟩ := exists_encode_eq_of_isCommandWord h
    exact ⟨i, decode_encode i⟩

/-- R82: no word selects two rows; the encoding of a command selects one, and every other word none. -/
theorem length_filter_selectedBy_le_one (w : Word16) :
    (opcodeTable.filter fun row => row.selectedBy w).length ≤ 1 := by
  by_cases h : isCommandWord w = true
  · obtain ⟨i, rfl⟩ := exists_encode_eq_of_isCommandWord h
    exact (congrArg List.length (tableRowOf i)).le
  · have hnone : opcodeTable.filter (fun row => row.selectedBy w) = [] :=
      List.filter_eq_nil_iff.mpr fun row hrow hsel => h (List.any_eq_true.mpr ⟨row, hrow, hsel⟩)
    simp [hnone]

/-- Settles O2: the words that decode are the encodings, and `tableRowOf` says which rows those select. -/
theorem decodesExactlyTheTablesWords : Obligations.DecodesExactlyTheTablesWords := by
  refine ⟨exists_decode_eq_ok_iff, length_filter_selectedBy_le_one, fun w i h => ?_⟩
  obtain rfl := encode_of_decode_eq_ok h
  exact ⟨(row_mem_and_selectedBy_encode i).2, rfl⟩

/-- Settles O3: one case of the decoder's match for each line of the pseudocode, and `command_of_decode_eq_error`. -/
theorem decodeFollowsThePseudocode : Obligations.DecodeFollowsThePseudocode := by
  refine ⟨fun op arg => ?_, fun w e s h => command_of_decode_eq_error h s⟩
  change decode (commandWord op arg) = _
  simp only [decode, opField_commandWord, argField_commandWord]
  split
  case h_10 => simp_all
  all_goals rfl

/-- Settles O5: each word is decoded. -/
theorem wordsOfTheSpecDecode : Obligations.WordsOfTheSpecDecode :=
  ⟨rfl, rfl, rfl, rfl, rfl, rfl, rfl, rfl, rfl, rfl, rfl, rfl⟩

end Sys2Proof
end

section
/-! Proofs for the invariant (R34, R35, R210, R260), the registers' writers (R32, R192) and the errors (R212). RX_DECODE is
taken by its three outcomes, and every other word by what it is allowed to move. -/

namespace Sys2Proof.Machine

/-! ## The invariant -/

/-- What the host presents is no part of the invariant. -/
theorem inv_withInputs {s : State} (h : s.Inv) (x : List HostInput) : State.Inv { s with inputs := x } := h

/-- Settles O45: no byte is buffered, STATUS is OK, VALID is 0, and there is no response. -/
theorem invariantHoldsAtReset : Obligations.InvariantHoldsAtReset :=
  ⟨Nat.zero_le _, .inl rfl, nofun, fun h => absurd h (by decide), fun _ => rfl⟩

theorem rxbuf_eq_nil_of_exec_rxDecode {s t : State} (h : exec .rxDecode s = .next t) : t.rxbuf = [] := by
  rcases execRxDecode_cases s with ⟨_, h'⟩ | ⟨F, _, _, h'⟩ | ⟨F, _, _, h'⟩ <;> cases h'.symm.trans h <;> rfl

/-- Every word keeps the buffer's canonical form: two commands empty it, and the others truncate (R34). -/
theorem command_keeps_rxbuf_wf {w : Word16} {s t : State} (hwf : RxBuf.wf s.rxbuf) (h : command w s = .next t) :
    RxBuf.wf t.rxbuf := by
  by_cases hclear : decode w = .ok .rxClear
  · rw [command_of_decode_eq_ok hclear] at h
    cases h
    exact discardBuffer_wf s
  by_cases hdecode : decode w = .ok .rxDecode
  · rw [command_of_decode_eq_ok hdecode] at h
    rw [rxbuf_eq_nil_of_exec_rxDecode h]
    exact Nat.zero_le _
  · rw [command_rxbuf hclear hdecode hwf h]
    exact List.length_take_le _ _

/-- The fields of a frame stand for the bytes the CRC covers (R153, R64). -/
theorem payload_of_frameFields (F : RawFrame) :
    [(frameFields F).addr, (frameFields F).func, (frameFields F).bcnt, highByte (frameFields F).hum,
      lowByte (frameFields F).hum, highByte (frameFields F).temp, lowByte (frameFields F).temp] = payload F := by
  simp only [frameFields, payload, highByte_be16, lowByte_be16]

/-- While VALID is 1 the decoded registers are those of a frame whose CRC matched (R35, R38): the invariant's fourth part. -/
def DecodedFrameMatches (s : State) : Prop :=
  s.valid = 1 → s.calcCrc = crc16 (decodedPayload s) ∧ s.rxCrc = s.calcCrc

/-- RX_DECODE ends with VALID = 0, or latches the fields and both CRCs of one frame whose CRC matches. -/
theorem exec_rxDecode_decodedFrameMatches {s t : State} (h : exec .rxDecode s = .next t) : DecodedFrameMatches t := by
  have hzero : (0 : BitVec 1) ≠ 1 := by decide
  rcases execRxDecode_cases s with ⟨_, h'⟩ | ⟨F, _, _, h'⟩ | ⟨F, hF, hv, h'⟩ <;> cases h'.symm.trans h <;> intro hvalid
  · exact absurd hvalid hzero
  · exact absurd hvalid hzero
  · rw [latchCrcs_of_some hF]
    exact ⟨congrArg crc16 (payload_of_frameFields F).symm, ((validate_iff F).mp hv).symm⟩

theorem command_keeps_decodedFrameMatches {w : Word16} {s t : State} (hs : DecodedFrameMatches s)
    (h : command w s = .next t) : DecodedFrameMatches t := by
  by_cases hw : decode w = .ok .rxDecode
  · rw [command_of_decode_eq_ok hw] at h
    exact exec_rxDecode_decodedFrameMatches h
  · obtain ⟨st, d, c, b, h'⟩ := command_eq_respond_of_not_rxDecode hw s
    cases h'.symm.trans h
    exact hs

/-- Every word keeps the invariant: its answer sets STATUS and the response together. -/
theorem command_keeps_inv {w : Word16} {s t : State} (hs : s.Inv) (h : command w s = .next t) : t.Inv := by
  obtain ⟨hwf, _, _, hdecoded, _⟩ := hs
  have hwf' := command_keeps_rxbuf_wf hwf h
  have hdecoded' := command_keeps_decodedFrameMatches hdecoded h
  obtain ⟨st, d, u, h'⟩ := command_eq_respond w s
  cases h'.symm.trans h
  refine ⟨hwf', isStatusCode_statusCode st, ?_, hdecoded', nofun⟩
  rintro r ⟨⟩
  rfl

/-- Settles O46: an idle step and a step with reset asserted meet the invariant at once, and a command keeps it. -/
theorem everyStepKeepsTheInvariant : Obligations.EveryStepKeepsTheInvariant := by
  intro s t hs h
  rcases step_cases h with ⟨_, rfl⟩ | ⟨rest, _, rfl⟩ | ⟨w, rest, _, hc⟩
  · exact hs
  · exact inv_withInputs invariantHoldsAtReset rest
  · exact command_keeps_inv (inv_withInputs hs rest) hc

/-! ## The writers of each register (R32, R192) -/

theorem decode_of_crcAfter_ne {w c : Word16} (h : crcAfter w c ≠ c) :
    decode w = .ok .crcInit ∨ ∃ b, decode w = .ok (.crcByte b) := by
  unfold crcAfter at h
  split at h
  · next hd => exact .inl hd
  · next b hd => exact .inr ⟨b, hd⟩
  · exact absurd rfl h

/-- The buffer moves only under its three writers, and a push needs room. -/
theorem decode_of_rxbuf_ne {w : Word16} {s t : State} (h : command w s = .next t) (hne : t.rxbuf ≠ s.rxbuf) :
    decode w = .ok .rxClear ∨ decode w = .ok .rxDecode ∨ ((∃ b, decode w = .ok (.rxPush b)) ∧ s.rxbuf.length < 9) := by
  rcases command_cases h with ⟨i, hd, he⟩ | ⟨e, _, rfl⟩
  · rw [hd]
    cases i with
    | rxClear => exact .inl rfl
    | rxDecode => exact .inr (.inl rfl)
    | rxPush b =>
      refine .inr (.inr ⟨⟨b, rfl⟩, ?_⟩)
      by_contra hfull
      cases (exec_rxPush_of_nine_le_length b (Nat.not_lt.mp hfull)).symm.trans he
      exact hne rfl
    | nop | crcInit | crcByte | crcRead | reqRead | rdReg =>
      exact absurd (exec_rxbuf_of_ne (by nofun) (by nofun) (by nofun) he) hne
  · exact absurd rfl hne

/-- The registers that RX_DECODE alone writes, besides VALID (R36-R39). -/
structure SameDecodeRegisters (s t : State) : Prop where
  hum : t.hum = s.hum
  temp : t.temp = s.temp
  rAddr : t.rAddr = s.rAddr
  rFunc : t.rFunc = s.rFunc
  rBcnt : t.rBcnt = s.rBcnt
  readCount : t.readCount = s.readCount
  rxCrc : t.rxCrc = s.rxCrc
  calcCrc : t.calcCrc = s.calcCrc

theorem sameDecodeRegisters_of_not_rxDecode {w : Word16} {s t : State} (hw : decode w ≠ .ok .rxDecode)
    (h : command w s = .next t) : SameDecodeRegisters s t := by
  obtain ⟨st, d, c, b, h'⟩ := command_eq_respond_of_not_rxDecode hw s
  cases h'.symm.trans h
  exact ⟨rfl, rfl, rfl, rfl, rfl, rfl, rfl, rfl⟩

/-- Settles O38: CRC by `command_crc`, the buffer by `decode_of_rxbuf_ne`, and what RX_DECODE alone writes by
`sameDecodeRegisters_of_not_rxDecode` together with the order of RX_DECODE's checks (`decodeChecksInOrder`). -/
theorem registersChangeOnlyByTheirWriters : Obligations.RegistersChangeOnlyByTheirWriters := by
  intro w s t h
  refine ⟨fun hne => decode_of_crcAfter_ne (command_crc h ▸ hne), decode_of_rxbuf_ne h,
    not_imp_comm.mp fun hw => valid_of_not_rxDecode hw h, ?_, ?_, command_inputs h⟩
  · intro hne
    by_cases hw : decode w = .ok .rxDecode
    · refine ⟨hw, ?_⟩
      rw [command_of_decode_eq_ok hw] at h
      obtain ⟨_, _, hkept⟩ := decodeChecksInOrder s t h
      by_contra hstatus
      simp [hkept hstatus] at hne
    · obtain ⟨h₁, h₂, h₃, h₄, h₅, h₆, _, _⟩ := sameDecodeRegisters_of_not_rxDecode hw h
      simp [h₁, h₂, h₃, h₄, h₅, h₆] at hne
  · intro hne
    by_cases hw : decode w = .ok .rxDecode
    · refine ⟨hw, ?_⟩
      rw [command_of_decode_eq_ok hw] at h
      obtain ⟨hshort, _, _⟩ := decodeChecksInOrder s t h
      by_contra hlen
      simp [hshort (Nat.not_le.mp hlen)] at hne
    · obtain ⟨_, _, _, _, _, _, h₁, h₂⟩ := sameDecodeRegisters_of_not_rxDecode hw h
      simp [h₁, h₂] at hne

/-! ## What an error changes (R212) -/

/-- The errors that are no error of RX_DECODE's own. -/
def PlainError (st : Status) : Prop := st = .errIllegal ∨ st = .errRange ∨ st = .errRxOverrun

/-- A command other than RX_DECODE ends with OK, or with a plain error and no other change. -/
theorem exec_ok_or_plainError {i : Instr} (hi : i ≠ .rxDecode) (s : State) :
    (∃ d u, exec i s = .next (respond .ok d u)) ∨ ∃ st d, PlainError st ∧ exec i s = .next (respond st d s) := by
  cases i with
  | rxDecode => exact absurd rfl hi
  | reqRead k =>
    cases hb : romByte (indexOperand k) with
    | some b => exact .inl ⟨_, _, exec_reqRead_of_romByte_eq_some hb s⟩
    | none => exact .inr ⟨_, _, .inr (.inl rfl), exec_reqRead_of_romByte_eq_none hb s⟩
  | rdReg r =>
    cases hv : readReg s (indexOperand r) with
    | some v => exact .inl ⟨_, _, exec_rdReg_of_readReg_eq_some hv⟩
    | none => exact .inr ⟨_, _, .inr (.inl rfl), exec_rdReg_of_readReg_eq_none hv⟩
  | rxPush b =>
    rcases Nat.lt_or_ge s.rxbuf.length 9 with hlen | hlen
    · exact .inl ⟨_, _, exec_rxPush_of_length_lt b hlen⟩
    · exact .inr ⟨_, _, .inr (.inr rfl), exec_rxPush_of_nine_le_length b hlen⟩
  | nop => exact .inl ⟨_, _, exec_nop s⟩
  | crcInit => exact .inl ⟨_, _, exec_crcInit s⟩
  | crcByte b => exact .inl ⟨_, _, exec_crcByte b s⟩
  | crcRead => exact .inl ⟨_, _, exec_crcRead s⟩
  | rxClear => exact .inl ⟨_, _, exec_rxClear s⟩

/-- Every word ends with OK, with a plain error and no other change, or with one of the two errors of RX_DECODE. -/
theorem command_ok_or_error (w : Word16) (s : State) :
    (∃ d u, command w s = .next (respond .ok d u)) ∨
    (∃ st d, PlainError st ∧ command w s = .next (respond st d s)) ∨
    (∃ d, command w s = .next (rejectFrame .errReadShort d s)) ∨
    (∃ d F, computedCrc F ≠ transmittedCrc F ∧ command w s =
      .next (rejectFrame .errCrcMismatch d { s with rxCrc := transmittedCrc F, calcCrc := computedCrc F })) := by
  cases hd : decode w with
  | error e => exact .inr (.inl ⟨_, _, .inl rfl, command_of_decode_eq_error hd s⟩)
  | ok i =>
    rw [command_of_decode_eq_ok hd]
    by_cases hi : i = .rxDecode
    · subst hi
      rcases execRxDecode_cases s with ⟨_, h⟩ | ⟨F, hF, hv, h⟩ | ⟨F, _, _, h⟩
      · exact .inr (.inr (.inl ⟨_, h⟩))
      · rw [latchCrcs_of_some hF] at h
        exact .inr (.inr (.inr ⟨_, F, mt (validate_iff F).mpr (Bool.eq_false_iff.mp hv), h⟩))
      · exact .inl ⟨_, _, h⟩
    · rcases exec_ok_or_plainError hi s with hok | hplain
      · exact .inl hok
      · exact .inr (.inl hplain)

/-- Settles O40: `command_ok_or_error` gives the four shapes of the next state, and STATUS tells them apart. -/
theorem errorsChangeOnlyWhatTheyList : Obligations.ErrorsChangeOnlyWhatTheyList := by
  intro w s t h
  rcases command_ok_or_error w s with ⟨d, u, h'⟩ | ⟨st, d, hst, h'⟩ | ⟨d, h'⟩ | ⟨d, F, hF, h'⟩ <;>
    cases h'.symm.trans h
  · simp [statusCode]
  · refine ⟨fun _ => rfl, ?_⟩
    rcases hst with rfl | rfl | rfl <;> simp [statusCode]
  · refine ⟨fun hc => ?_, fun _ => rfl, fun hc => ?_⟩ <;> simp [rejectFrame, statusCode] at hc
  · refine ⟨fun hc => ?_, fun hc => ?_, fun _ => ⟨rfl, hF.symm⟩⟩ <;> simp [rejectFrame, statusCode] at hc

/-- Settles O35: every outcome of RX_DECODE leaves an empty buffer, which has no slot to read. -/
theorem decodeDiscardsTheBuffer : Obligations.DecodeDiscardsTheBuffer := by
  intro s
  rcases execRxDecode_cases s with ⟨_, h⟩ | ⟨F, _, _, h⟩ | ⟨F, _, _, h⟩ <;>
    exact ⟨_, h, rfl, exec_rdReg_slot_of_rxbuf_eq_nil rfl⟩

end Sys2Proof.Machine
end

section
/-! Proofs for steps and programs (R30, R45, R69, R91, R261, R262, R266). First what one step can do, then what a list of
words does, in order. -/

namespace Sys2Proof.Machine

/-! ## One step -/

/-- A step takes the word presented first and runs it on the state without it. -/
theorem step_present (w : Word16) (s : State) : step (present w s) = command w s := rfl

theorem withFetchWord_toNat (w : Word16) (s : State) : s.withFetchWord 16 w.toNat = present w s := by
  rw [State.withFetchWord, Nat.mod_eq_of_lt w.isLt, BitVec.ofNat_toNat, BitVec.setWidth_eq]

/-- A state whose next input is a word is that word presented to the state without it. -/
theorem present_of_inputs_eq_cons {s : State} {w : Word16} {rest : List HostInput} (h : s.inputs = .command w :: rest) :
    present w { s with inputs := rest } = s := by
  simp [present, ← h]

/-- Settles O6: the step runs the word, and the word its command (`command_of_decode_eq_ok`). -/
theorem stepRunsTheDecodedCommand : Obligations.StepRunsTheDecodedCommand := by
  refine ⟨fun s w rest i hd => command_of_decode_eq_ok hd { s with inputs := rest }, fun s w i hd => ?_⟩
  rw [withFetchWord_toNat, step_present, command_of_decode_eq_ok hd]

/-- Settles O7: the step of a state with no input is the state itself. -/
theorem nothingPresentedNothingChanges : Obligations.NothingPresentedNothingChanges := fun _ => rfl

/-- Settles O9: `step_eq_next`, and every word is answered (`command_eq_respond`). -/
theorem everyStepAnswersANextState : Obligations.EveryStepAnswersANextState := by
  refine ⟨step_eq_next, fun w s => ?_⟩
  obtain ⟨st, d, u, h⟩ := command_eq_respond w s
  exact ⟨_, d, h, rfl⟩

/-- Settles O11: of the three kinds of step only a command can count, and it counts by `command_readCount`. -/
theorem resetInputAppliesReset : Obligations.ResetInputAppliesReset := by
  refine ⟨fun _ _ => rfl, fun s t h => ?_⟩
  rcases step_cases h with ⟨_, rfl⟩ | ⟨rest, hi, _⟩ | ⟨w, rest, hi, hc⟩
  · exact .inl rfl
  · exact .inr (.inr (congrArg List.head? hi))
  · have hcount := command_readCount hc
    rw [present_of_inputs_eq_cons hi] at hcount
    by_cases hnow : decodesNow s = true
    · exact .inr (.inl ⟨hnow, by simpa [hnow] using hcount⟩)
    · exact .inl (by simpa [hnow] using hcount)

/-! ## A program's words in order -/

theorem runWords_eq_next (ws : List Word16) (s : State) : ∃ t, runWords ws s = .next t := by
  induction ws generalizing s with
  | nil => exact ⟨_, rfl⟩
  | cons w ws ih =>
    obtain ⟨st, d, u, hu⟩ := command_eq_respond w s
    obtain ⟨t, ht⟩ := ih (respond st d u)
    exact ⟨t, (runWords_cons ws hu).trans ht⟩

/-- Settles O8: both runs answer (`runWords_eq_next`), and the joined one passes through the first (`runWords_append`). -/
theorem programsRunInOrder : Obligations.ProgramsRunInOrder := by
  intro ws vs s
  obtain ⟨t, ht⟩ := runWords_eq_next ws s
  obtain ⟨u, hu⟩ := runWords_eq_next vs t
  exact ⟨t, u, ht, hu, (runWords_append vs ht).trans hu⟩

/-- Settles O17: the accumulator at reset is the initial value, and CRC_READ answers what `runWords_crc` leaves in it. -/
theorem crcAfterResetNeedsNoInit : Obligations.CrcAfterResetNeedsNoInit := by
  intro ws hws
  obtain ⟨t, ht, hcrc⟩ := runWords_crc ws State.reset hws
  have hcrc' : t.crc = crc16 (crcBytes ws) := hcrc
  have hread : command 0x0300 t = .next (respond .ok t.crc t) := command_of_decode_eq_ok (decode_crcReadWord 0x00) t
  refine ⟨t, _, ht, hcrc', hread, ?_⟩
  rw [← hcrc']
  rfl

/-! ## The two halves of READ_COUNT (R266) -/

theorem command_readCountLow (s : State) :
    command 0x300B s = .next (respond .ok (s.readCount.extractLsb' 0 16) s) := rfl

theorem command_readCountHigh (s : State) :
    command 0x300C s = .next (respond .ok (s.readCount.extractLsb' 16 16) s) := rfl

/-- A program presents words only, so it adds to READ_COUNT exactly its successful decodes. -/
theorem runWords_readCount (ws : List Word16) (s : State) :
    ∃ t, runWords ws s = .next t ∧
      t.readCount = s.readCount + BitVec.ofNat 32 (successfulDecodes ws.length { s with inputs := presented ws }) := by
  refine steps_readCount ws.length { s with inputs := presented ws } ?_
  simp [presented]

/-- Settles O44: the first read answers the low half, no word between the reads counts (`runWords_readCount`), and the last
read answers the high half of the same counter. -/
theorem readCountHalvesAreConsistent : Obligations.ReadCountHalvesAreConsistent := by
  intro ws s
  obtain ⟨u, hu, hcount⟩ := runWords_readCount ws { respond .ok (s.readCount.extractLsb' 0 16) s with inputs := [] }
  refine ⟨_, u, _, runWords_singleton (command_readCountLow s), hu, runWords_singleton (command_readCountHigh u),
    fun hnone => ⟨_, _, rfl, rfl, ?_⟩⟩
  rw [hnone] at hcount
  have hsame : u.readCount = s.readCount := by simpa using hcount
  rw [hsame]
  exact BitVec.extractLsb'_append_extractLsb'

end Sys2Proof.Machine
end

section
/-! Proofs for the assembler (R88, R91) and for the values of raw fields (R156). -/

namespace Sys2Proof.Machine

/-! ## The assembler -/

theorem wellFormed_instr (i : Instr) : i.wellFormed = true :=
  List.contains_iff_mem.mpr (row_mem_and_selectedBy_encode i).1

theorem assembleItem_instr (i : Instr) : assembleItem (.instr i) = some [encode i] := if_pos (wellFormed_instr i)

theorem assembleItem_illegal (w : Word16) : assembleItem (.illegal w) = if isCommandWord w then none else some [w] := by
  cases h : isCommandWord w <;> simp [assembleItem, asmWellFormed, h]

theorem isCommandWord_of_decode_eq_error {w : Word16} {e : IllegalWord} (h : decode w = .error e) :
    isCommandWord w = false := by
  rw [Bool.eq_false_iff, ne_eq, ← exists_decode_eq_ok_iff]
  rintro ⟨i, hi⟩
  cases h.symm.trans hi

theorem assemble_map_instr (is : List Instr) : assemble (is.map .instr) = some (is.map encode) := by
  induction is with
  | nil => rfl
  | cons i is ih => simp [assemble, assembleItem_instr, ih]

/-- Settles O47: `assembleItem_illegal` asks whether the word is a command's, which `exists_decode_eq_ok_iff` answers. -/
theorem assemblerRejectsDisguisedCommands : Obligations.AssemblerRejectsDisguisedCommands := by
  refine ⟨fun w => ?_, fun w ⟨e, he⟩ => ?_, assemble_map_instr⟩
  · simp [assembleItem_illegal, exists_decode_eq_ok_iff]
  · simp [assembleItem_illegal, isCommandWord_of_decode_eq_error he]

/-! ## The value of a raw field -/

theorem fieldValue_mem_range (r : Word16) : -32768 / 10 ≤ fieldValue r ∧ fieldValue r ≤ 32767 / 10 := by
  have hlow : (-32768 : Rat) ≤ r.toInt := by exact_mod_cast r.le_toInt
  have hhigh : (r.toInt : Rat) ≤ 32767 := by exact_mod_cast Int.le_of_lt_add_one r.toInt_lt
  rw [fieldValue_eq_tenths]
  constructor <;> gcongr

/-- Settles O29: `fieldValue_eq_tenths`, the range of `toInt`, and the integer each example's pattern stands for. -/
theorem fieldValueIsExactTenths : Obligations.FieldValueIsExactTenths := by
  have hvalue : ∀ (r : Word16) (n : Int), r.toInt = n → fieldValue r = n / 10 :=
    fun r n h => h ▸ fieldValue_eq_tenths r
  refine ⟨fieldValue_eq_tenths, fieldValue_mem_range, ?_, ?_, ?_, ?_, ?_, ?_⟩
  · rw [hvalue 0x01F4 500 rfl]; norm_num
  · rw [hvalue 0x00C8 200 rfl]; norm_num
  · rw [hvalue 0xFF9C (-100) rfl]; norm_num
  · rw [hvalue 0x8000 (-32768) rfl]; norm_num
  · rw [hvalue 0x7FFF 32767 rfl]; norm_num
  · rw [hvalue 0xFFFF (-1) rfl]; norm_num

end Sys2Proof.Machine
end

section
/-! Proofs for the pseudo-commands (R89, R90) and the host's poll cycle (R221, R223). `issue` runs a command list; its rules
come first, then what the lists of RX_PUSH and CRC_BYTE do, and CHECK_FRAME is RX_DECODE on the first nine bytes given. -/

namespace Sys2Proof.Machine

/-! ## Issuing a list of commands -/

theorem command_encode (i : Instr) (s : State) : command (encode i) s = exec i s :=
  command_of_decode_eq_ok (decode_encode i) s

/-- The first command of a list answers, and the rest is issued from the state it leaves. -/
theorem issue_cons_of_exec {i : Instr} {rest : List Instr} {s u v : State} {st : Status} {d : Word16} {rs : List Response}
    (h : exec i s = .next (respond st d u)) (hrest : issue rest (respond st d u) = .next (v, rs)) :
    issue (i :: rest) s = .next (v, ⟨statusCode st, d⟩ :: rs) := by
  rw [issue_cons ((command_encode i s).trans h), hrest]
  rfl

/-- Every list is answered to its end. -/
theorem issue_eq_next (is : List Instr) (s : State) : ∃ t rs, issue is s = .next (t, rs) ∧ rs.length = is.length := by
  induction is generalizing s with
  | nil => exact ⟨_, _, rfl, rfl⟩
  | cons i is ih =>
    obtain ⟨st, d, u, hu⟩ := command_eq_respond (encode i) s
    obtain ⟨t, rs, ht, hlen⟩ := ih (respond st d u)
    exact ⟨t, _, issue_cons_of_exec ((command_encode i s).symm.trans hu) ht, congrArg Nat.succ hlen⟩

/-- A list that is answered to its end was answered by its first command, and then by the rest. -/
theorem issue_cons_cases {i : Instr} {is : List Instr} {s t : State} {rs : List Response}
    (h : issue (i :: is) s = .next (t, rs)) :
    ∃ st d u rs', exec i s = .next (respond st d u) ∧ issue is (respond st d u) = .next (t, rs') ∧
      rs = ⟨statusCode st, d⟩ :: rs' := by
  obtain ⟨st, d, u, hu⟩ := command_eq_respond (encode i) s
  obtain ⟨t', rs', hrest, -⟩ := issue_eq_next is (respond st d u)
  have hi := (command_encode i s).symm.trans hu
  cases (issue_cons_of_exec hi hrest).symm.trans h
  exact ⟨st, d, u, rs', hi, hrest, rfl⟩

theorem issue_append {is js : List Instr} {s t u : State} {rs us : List Response} (h : issue is s = .next (t, rs))
    (h' : issue js t = .next (u, us)) : issue (is ++ js) s = .next (u, rs ++ us) := by
  induction is generalizing s rs with
  | nil => cases h; exact h'
  | cons i is ih =>
    obtain ⟨st, d, v, rs', hi, hrest, rfl⟩ := issue_cons_cases h
    exact issue_cons_of_exec hi (ih hrest)

/-- Presenting a list's words to the block leaves the state that issuing the list leaves. -/
theorem runWords_map_encode {is : List Instr} {s t : State} {rs : List Response} (h : issue is s = .next (t, rs)) :
    runWords (is.map encode) s = .next { t with inputs := [] } := by
  induction is generalizing s rs with
  | nil => cases h; rfl
  | cons i is ih =>
    obtain ⟨st, d, v, rs', hi, hrest, -⟩ := issue_cons_cases h
    exact (runWords_cons _ ((command_encode i s).trans hi)).trans (ih hrest)

/-! ## CRC_BLOCK -/

theorem issue_map_crcByte_crc {bytes : List Byte} {s t : State} {rs : List Response}
    (h : issue (bytes.map .crcByte) s = .next (t, rs)) : t.crc = bytes.foldl crcStep8 s.crc := by
  induction bytes generalizing s rs with
  | nil => cases h; rfl
  | cons b bytes ih =>
    obtain ⟨st, d, v, rs', hi, hrest, -⟩ := issue_cons_cases h
    rw [ih hrest, Host.Outcome.next.inj (hi.symm.trans (exec_crcByte b s))]
    rfl

/-- Settles O34: CRC_INIT, the bytes folded in (`issue_map_crcByte_crc`), and CRC_READ's answer at the end. -/
theorem crcBlockAnswersCrc16 : Obligations.CrcBlockAnswersCrc16 := by
  intro bytes s
  obtain ⟨t, rs, ht, hlen⟩ := issue_eq_next (bytes.map .crcByte) (respond .ok crcInitial (setCrc crcInitial s))
  have hcrc : t.crc = crc16 bytes := issue_map_crcByte_crc ht
  have hread : issue [.crcRead] t = .next (respond .ok t.crc t, [⟨0x00, t.crc⟩]) :=
    issue_cons_of_exec (exec_crcRead t) rfl
  refine ⟨_, _, issue_cons_of_exec (exec_crcInit s) (issue_append ht hread), hcrc, ?_, ?_⟩
  · rw [← List.cons_append, List.getLast?_concat, hcrc]
  · simp [hlen]

/-! ## RX_FRAME (R90) -/

/-- The answer to a push that finds `n` bytes in the buffer. -/
def pushResponse (n : Nat) : Response :=
  if n < 9 then ⟨0x00, BitVec.ofNat 16 (n + 1)⟩ else ⟨0x03, 0x0009⟩

/-- A push changes nothing but the buffer and the answer, from a buffer in canonical form. -/
theorem exec_rxPush_eq_respond (b : Byte) {s : State} (hwf : RxBuf.wf s.rxbuf) :
    ∃ st d, exec (.rxPush b) s = .next (respond st d { s with rxbuf := (s.rxbuf ++ [b]).take 9 }) ∧
      pushResponse s.rxbuf.length = ⟨statusCode st, d⟩ := by
  rcases Nat.lt_or_ge s.rxbuf.length 9 with hlen | hlen
  · have hpush := exec_rxPush_of_length_lt b hlen
    have hbuf : s.rxbuf ++ [b] = (s.rxbuf ++ [b]).take 9 := exec_rxPush_rxbuf hwf hpush
    rw [← hbuf]
    exact ⟨_, _, hpush, if_pos hlen⟩
  · have hpush := exec_rxPush_of_nine_le_length b hlen
    have hbuf : s.rxbuf = (s.rxbuf ++ [b]).take 9 := exec_rxPush_rxbuf (t := respond .errRxOverrun 0x0009 s) hwf hpush
    rw [← hbuf]
    exact ⟨_, _, hpush, if_neg (Nat.not_lt.mpr hlen)⟩

/-- With nine bytes or more there is no room, however many more there are. -/
theorem pushResponse_min (n : Nat) : pushResponse (min 9 n) = pushResponse n := by
  rcases Nat.lt_or_ge n 9 with h | h
  · rw [Nat.min_eq_right h.le]
  · rw [Nat.min_eq_left h, pushResponse, pushResponse, if_neg (Nat.lt_irrefl 9), if_neg (Nat.not_lt.mpr h)]

/-- RX_FRAME leaves the first nine bytes and its last answer, changes nothing else, and answers push by push. -/
theorem issue_rxFrameCommands (bytes : List Byte) (s : State) :
    ∃ st d, issue (rxFrameCommands bytes) s = .next (respond st d { s with rxbuf := bytes.take 9 },
      ⟨0x00, 0x0000⟩ :: (List.range bytes.length).map pushResponse) := by
  induction bytes using List.reverseRecOn with
  | nil => exact ⟨_, _, issue_cons_of_exec (exec_rxClear s) rfl⟩
  | append_singleton bytes b ih =>
    obtain ⟨st, d, hframe⟩ := ih
    obtain ⟨st', d', hpush, hanswer⟩ :=
      exec_rxPush_eq_respond b (s := respond st d { s with rxbuf := bytes.take 9 }) (List.length_take_le _ _)
    have hlist : rxFrameCommands (bytes ++ [b]) = rxFrameCommands bytes ++ [Instr.rxPush b] := by
      simp [rxFrameCommands]
    have hbuf : (bytes.take 9 ++ [b]).take 9 = (bytes ++ [b]).take 9 := take_append_take 9 bytes [b]
    have hlast : pushResponse bytes.length = ⟨statusCode st', d'⟩ := by
      rw [← hanswer, ← pushResponse_min, ← List.length_take]
      rfl
    refine ⟨st', d', ?_⟩
    rw [hlist, issue_append hframe (issue_cons_of_exec hpush rfl), ← hbuf, List.length_append, List.length_singleton,
      List.range_succ, List.map_append, List.map_singleton, hlast]
    rfl

/-! ## CHECK_FRAME -/

/-- RX_DECODE reads neither STATUS nor the outputs, and overwrites both. -/
theorem exec_rxDecode_respond (st : Status) (d : Word16) (s : State) :
    exec .rxDecode (respond st d s) = exec .rxDecode s := by
  simp only [exec, execRxDecode, latchCrcs, decodeFrame, respond_rxbuf]
  cases frameOfBytes s.rxbuf with
  | none => rfl
  | some F => cases validate F <;> rfl

/-- CHECK_FRAME ends as RX_DECODE ends on the first nine of its bytes. -/
theorem issue_checkFrame {bytes : List Byte} {s u : State} {st : Status} {d : Word16}
    (h : exec .rxDecode { s with rxbuf := bytes.take 9 } = .next (respond st d u)) :
    ∃ rs, issue (expand (.checkFrame bytes)) s = .next (respond st d u, rs) := by
  obtain ⟨st', d', hframe⟩ := issue_rxFrameCommands bytes s
  exact ⟨_, issue_append hframe (issue_cons_of_exec ((exec_rxDecode_respond _ _ _).trans h) rfl)⟩

/-- Settles O33: `issue_rxFrameCommands`, and RX_DECODE finds too few bytes after it. -/
theorem rxFrameKeepsTheFirstNineBytes : Obligations.RxFrameKeepsTheFirstNineBytes := by
  intro bytes s
  obtain ⟨st, d, hframe⟩ := issue_rxFrameCommands bytes s
  refine ⟨_, _, hframe, rfl, rfl, fun hlen => ?_⟩
  have hshort : ({ s with rxbuf := bytes.take 9 } : State).rxbuf.length < 9 := (List.length_take_le' _ _).trans_lt hlen
  obtain ⟨rs, hcheck⟩ := issue_checkFrame (exec_rxDecode_of_length_lt hshort)
  exact ⟨_, rs, hcheck, rfl⟩

/-- RX_DECODE accepts an encoded response and latches its fields and its CRC. -/
theorem exec_rxDecode_encodeResponse (s : State) (a f n : Byte) (h t : Word16) :
    let c := crc16 (responsePayload a f n h t)
    exec .rxDecode { s with rxbuf := encodeResponse a f n h t } =
      .next (acceptFrame ⟨a, f, n, h, t⟩ c { s with rxCrc := c, calcCrc := c }) := by
  rw [exec_rxDecode_of_some (frameOfBytes_encodeResponse a f n h t), computedCrc_responseFrame,
    transmittedCrc_responseFrame, frameFields_responseFrame]
  exact if_pos rfl

/-- Settles O31: CHECK_FRAME runs RX_DECODE on the response (`issue_checkFrame`), and its words do what issuing it does. -/
theorem encodedResponseDecodesThroughTheBlock : Obligations.EncodedResponseDecodesThroughTheBlock := by
  intro s a f n h t p
  obtain ⟨rs, hcheck⟩ := issue_checkFrame (bytes := encodeResponse a f n h t) (exec_rxDecode_encodeResponse s a f n h t)
  exact runWords_map_encode hcheck

/-! ## The poll cycle (R221) -/

theorem issue_reqFrame (s : State) :
    issue (expand .reqFrame) s = .next (respond .ok 0x000B s, reqRom.map fun b => ⟨0x00, zext16 b⟩) :=
  requestFrameIsTheConstant.1 s

/-- A short write ends the cycle before anything is read. -/
theorem pollCycle_of_accepted_ne {k : Nat} (hk : k ≠ 8) (bytes : List Byte) (s : State) :
    pollCycle ⟨k, bytes⟩ s = .next ⟨respond .ok 0x000B s, [.write reqRom], .failed (.writeShort k)⟩ := by
  simp only [pollCycle, issue_reqFrame, onNext, if_neg hk]
  rfl

theorem pollCycle_of_accepted_eight (bytes : List Byte) (s : State) :
    pollCycle ⟨8, bytes⟩ s = receivePart ⟨8, bytes⟩ (respond .ok 0x000B s) [.write reqRom] := by
  simp only [pollCycle, issue_reqFrame, onNext]
  rfl

/-- RD_READING and RD_COUNT answer FLAGS, both raw fields and the counter's halves, and change nothing but STATUS. -/
theorem issue_readingAndCount (s : State) :
    issue (expand .rdReading ++ expand .rdCount) s = .next (respond .ok (s.readCount.extractLsb' 16 16) s,
      [⟨0x00, flagsWord s⟩, ⟨0x00, s.hum⟩, ⟨0x00, s.temp⟩, ⟨0x00, s.readCount.extractLsb' 0 16⟩,
        ⟨0x00, s.readCount.extractLsb' 16 16⟩]) := rfl

/-- Where RX_DECODE ends with OK the Reading of the state it leaves is emitted. -/
theorem receivePart_of_ok {d : Draw} {s u : State} {v : Word16} (sent : List HostAction)
    (h : exec .rxDecode { s with rxbuf := d.received.take 9 } = .next (respond .ok v u)) :
    receivePart d s sent = .next ⟨respond .ok (u.readCount.extractLsb' 16 16) u,
      sent ++ [HostAction.sleep 100, HostAction.read 9] ++ [HostAction.emit ⟨u.hum, u.temp, u.readCount⟩],
      .completed⟩ := by
  obtain ⟨rs, hcheck⟩ := issue_checkFrame h
  have hcount : u.readCount.extractLsb' 16 16 ++ u.readCount.extractLsb' 0 16 = u.readCount :=
    BitVec.extractLsb'_append_extractLsb'
  have hreceive : receivePart d s sent = .next ⟨respond .ok (u.readCount.extractLsb' 16 16) u,
      sent ++ [HostAction.sleep 100, HostAction.read 9] ++
        [HostAction.emit ⟨u.hum, u.temp, u.readCount.extractLsb' 16 16 ++ u.readCount.extractLsb' 0 16⟩],
      .completed⟩ := by
    simp only [receivePart, hcheck, onNext, issue_readingAndCount]
    rfl
  rwa [hcount] at hreceive

/-- The status in which RX_DECODE ends for each error of the pure function (R163). -/
def frameErrorStatus : FrameError → Status
  | .readShort => .errReadShort
  | .crcMismatch => .errCrcMismatch

/-- The host's error for each error of the pure function (R211). -/
def frameHostError : FrameError → HostError
  | .readShort => .readShort
  | .crcMismatch => .crcMismatch

/-- RX_DECODE rejects what the pure function rejects, and at most latches the two CRCs before it does. -/
theorem exec_rxDecode_of_error {s : State} {e : FrameError} (h : decodeFrame s.rxbuf = .error e) :
    ∃ v rx computed, exec .rxDecode s =
      .next (rejectFrame (frameErrorStatus e) v { s with rxCrc := rx, calcCrc := computed }) := by
  have hlatch := latchCrcs_eq s.rxbuf s
  cases e with
  | readShort => exact ⟨_, _, _, by simp only [exec, execRxDecode, h]; rw [hlatch]; rfl⟩
  | crcMismatch => exact ⟨_, _, _, by simp only [exec, execRxDecode, h]; rw [hlatch]; rfl⟩

/-- A frame that RX_DECODE rejects ends the cycle with the host's error, and nothing is emitted. -/
theorem receivePart_of_error {d : Draw} {e : FrameError} (hd : decodeFrame (d.received.take 9) = .error e) (s : State)
    (sent : List HostAction) :
    ∃ v rx computed, receivePart d s sent =
      .next ⟨rejectFrame (frameErrorStatus e) v { s with rxCrc := rx, calcCrc := computed },
        sent ++ [HostAction.sleep 100, HostAction.read 9], .failed (frameHostError e)⟩ := by
  obtain ⟨v, rx, computed, h⟩ := exec_rxDecode_of_error (s := { s with rxbuf := d.received.take 9 }) hd
  obtain ⟨rs, hcheck⟩ := issue_checkFrame h
  refine ⟨v, rx, computed, ?_⟩
  simp only [receivePart, hcheck, onNext]
  cases e <;> rfl

/-- Settles O48: the request goes out (`pollCycle_of_accepted_eight`), RX_DECODE accepts the response, and the Reading is
that of the state it leaves (`receivePart_of_ok`). -/
theorem goodPollCycleEmitsTheReading : Obligations.GoodPollCycleEmitsTheReading := by
  intro s a f n h t
  have hdecode := exec_rxDecode_encodeResponse (respond .ok 0x000B s) a f n h t
  have hreceive := receivePart_of_ok (d := ⟨8, encodeResponse a f n h t⟩) [.write reqRom] hdecode
  exact ⟨_, (pollCycle_of_accepted_eight _ s).trans hreceive, rfl, rfl, rfl, rfl, rfl, rfl⟩

/-- Settles O49: a short write by `pollCycle_of_accepted_ne`, a rejected frame by `receivePart_of_error`, and the loop's two
policies as `afterCycle` reads them. -/
theorem failedPollCyclesEmitNothing : Obligations.FailedPollCyclesEmitNothing := by
  refine ⟨fun s k bytes hk => pollCycle_of_accepted_ne hk bytes s, fun s bytes e hlen he => ?_,
    fun cfg d rest s c e hc hend => ⟨fun hpolicy => ?_, fun hpolicy r hr => ?_⟩⟩
  · have he' : decodeFrame (bytes.take 9) = .error e := by rwa [List.take_of_length_le hlen]
    obtain ⟨v, rx, computed, hreceive⟩ :=
      receivePart_of_error (d := ⟨8, bytes⟩) he' (respond .ok 0x000B s) [.write reqRom]
    exact ⟨_, (pollCycle_of_accepted_eight bytes s).trans hreceive, rfl, rfl, rfl, rfl⟩
  · simp only [pollLoop, hc, onNext, hend, afterCycle, hpolicy]
  · simp only [pollLoop, hc, onNext, hend, afterCycle, hpolicy, hr]

end Sys2Proof.Machine
end
